-- ==== Sys2Proof/Word.lean ====
section
/-! DEFINITION. The words of TB2Q-CORE: the command word and its fields, the word of the table memories, the time
stamp (spec 30_encoding R101, 20_memory R70, 00_scope R13). Everything else the spec counts or computes with is a
mathematical integer (00_scope R11): `Int` where it may be negative or enters signed arithmetic, `Nat` where it counts. -/

namespace Sys2Proof

/-- A 64-bit command word `OP ++ SEL ++ ADDR ++ DATA` (30_encoding R101). -/
abbrev CmdWord := BitVec 64

/-- The field OP, bits 63:56. -/
abbrev OpField := BitVec 8

/-- The field SEL, bits 55:48: a selector, read as an unsigned number (30_encoding R106). -/
abbrev SelField := BitVec 8

/-- The field ADDR, bits 47:32. -/
abbrev AddrField := BitVec 16

/-- The field DATA, bits 31:0. -/
abbrev DataField := BitVec 32

/-- A word of a table memory: an unsigned 12-bit sample (20_memory R70). -/
abbrev Sample := BitVec 12

/-- A value of NOW or a stored time stamp: microseconds modulo 2^32 (00_scope R13). -/
abbrev Time := BitVec 32

/-- A note: a signed number of semitones from the reference note (49_voice_allocator R370). -/
abbrev Note := Int

/-- The response word RSP, 160 bits (30_encoding R113). -/
abbrev RspWord := BitVec 160

end Sys2Proof
end

