-- ==== Sys2Proof/Config.lean ====
section
/-! DEFINITION. What an implementation of TB2Q-CORE fixes. The parameters of 00_scope R8, which the spec's source fixes,
and those of R9 whose constraint leaves one value are constants. Every other parameter of R9 and of 43_lfo R212 is a field
of `Params`, the block's configuration, whose default and whose legal values stand in Sys2Proof/Machine/Params.lean (log 8).
The free values are the random source (log 5) and the two functions a configuration may leave to the implementation
(log 8). -/

namespace Sys2Proof.Config

/-- RND past the words a state lists: the n-th word the random source supplies. FREE VALUE (00_scope R14, 93 U10): it
has no body, so nothing can be proved about which word it is. DESIGN CHOICE, log 5. -/
opaque rnd : Nat → Sample

/-- SHAPER_GEN(type, amount, x) of a curve the configuration leaves to the implementation (45_waveshaper_gain R256,
00_scope R9). FREE VALUE: it has no body. DESIGN CHOICE, log 8. -/
opaque shaperCurve : Nat → Nat → Nat → Sample

/-- SEQ_DUR_MAP(noteDuration, div), in pulses, before the clamp, where the configuration leaves the map to the
implementation (47_sequencer R317, 00_scope R9). FREE VALUE: it has no body. DESIGN CHOICE, log 8. -/
opaque durationMap : Nat → Nat → Nat

/-! Sample domain and tables (00_scope R8, R9). -/

/-- CENTRE: silence, the centre of the sample domain. -/
@[simp] def centre : Int := 2048
/-- SAMPLE_MAX: the top of the sample domain. -/
@[simp] def sampleMax : Int := 4095
/-- The largest gain word, amplitude, volume, depth and pulse width. -/
@[simp] def gainMax : Int := 1023
/-- TABLE_LEN = USER_TABLE_LEN = LFO_TABLE_LEN. -/
@[simp] def tableLen : Nat := 600
/-- The number of words of VOL[e], SHAPER and GAIN. -/
@[simp] def lookupLen : Nat := 4096
/-- The largest velocity. -/
@[simp] def velMax : Int := 127
/-- CUT_FB_DIV, the "cutoff/128" of the feedback formula. -/
@[simp] def cutFbDiv : Int := 128

/-! Clock and arpeggiator (00_scope R8). -/

/-- BPM_MIN. -/
@[simp] def bpmMin : Nat := 20
/-- BPM_MAX. -/
@[simp] def bpmMax : Nat := 320
/-- PPQ. -/
@[simp] def ppq : Nat := 96
/-- EXT_TIMEOUT_US. -/
@[simp] def extTimeoutUs : Nat := 300000
/-- BPM_BUF. -/
@[simp] def bpmBufLen : Nat := 24
/-- BPM_MIN_SAMPLES. -/
@[simp] def bpmMinSamples : Nat := 5
/-- BPM_CORR, the preserved +1 (46_clock R285). -/
@[simp] def bpmCorr : Nat := 1
/-- MIDI clock messages per quarter note (46_clock R284). -/
@[simp] def midiClocksPerQuarter : Nat := 24
/-- External clock messages per eighth note (46_clock R282). -/
@[simp] def extPulsesPerEighth : Nat := 12
/-- MIDI_CLK_OUT_DIV. -/
@[simp] def midiClkOutDiv : Nat := 24
/-- LED_PULSES. -/
@[simp] def ledPulses : Nat := 12
/-- ARP_CAP. -/
@[simp] def arpCap : Nat := 10

end Sys2Proof.Config

namespace Sys2Proof

/-! ## The configuration (00_scope R9, 43_lfo R212) -/

/-- SHAPER_GEN: the curves 45_waveshaper_gain R257 lists, or curves of the implementation's own. Type 0 is the identity
in both. -/
inductive ShaperGen where
  | listed | implementation
  deriving DecidableEq, Repr

/-- SEQ_DUR_MAP: the identity of 47_sequencer R317, or a map of the implementation's own. The result is clamped in
both. -/
inductive SeqDurMap where
  | identity | implementation
  deriving DecidableEq, Repr

/-- The parameters the source leaves open, under the names of 00_scope R9 and 43_lfo R212. An input of every step
(10_state R57): no operation writes one. No operation reads `envTickHz` or `timeUnitUs`: the first is the rate at which
the platform pulses ENV_REQ, the second the unit of NOW (70_reset_and_hazards R447, 00_scope R13). -/
structure Params where
  lfoTickHz      : Nat
  envTickHz      : Nat
  timeUnitUs     : Nat
  fracBits       : Nat
  incMax         : Int
  noteRef        : Int
  noteMin        : Int
  noteMax        : Int
  incTable       : List Int
  octMin         : Int
  octMax         : Int
  detuneMax      : Int
  spreadMax      : Int
  bitMunchMax    : Nat
  gainSlope      : Int
  shaperGen      : ShaperGen
  nShaperType    : Nat
  loadRampStep   : Int
  envClickThresh : Int
  envClickStep   : Int
  fxShift        : Nat
  fxUnity        : Int
  lfoTicksMin    : Int
  lfoTicksMax    : Int
  uiRefreshDiv   : Nat
  arrowDiv       : Nat
  blinkDiv       : Nat
  heldCap        : Nat
  divTable       : Vector Nat 4
  swingMax       : Nat
  seqDurMap      : SeqDurMap
  lfoPitchKnee   : Int
  lfoPitchBoost  : Int
  lfoPitchShift  : Nat
  lfoCutShift    : Nat
  lfoAmpShift    : Nat
  lfoPwShift     : Nat
  lfoPwMinDepth  : Int
  lfoOctShift    : Nat
  envCutShift    : Nat
  envRateShift   : Nat
  velPitchMul    : Int
  velCutShift    : Nat
  velPwShift     : Nat
  syncPulses     : Vector Nat 5
  syncEighths    : Vector Nat 5
  deriving DecidableEq, Repr

end Sys2Proof
end

