-- ==== Sys2Proof/Machine/Arith.lean ====
section
/-! DEFINITION. The arithmetic primitives of 00_scope R12 and R13, and the register wrap of 44_filter R242. `fdiv` by a
positive divisor is Lean's `/` on `Int` and `Nat`, and `mod` is `%`: both floor (00_scope R12). -/

namespace Sys2Proof.Machine

/-- `clamp(lo, hi, v)`: lo if v < lo, hi if v > hi, else v (00_scope R12). -/
def clamp (lo hi v : Int) : Int := if v < lo then lo else if hi < v then hi else v

/-- `clamp` on counts. -/
def clampNat (lo hi v : Nat) : Nat := if v < lo then lo else if hi < v then hi else v

/-- `a asr k`: arithmetic shift right, flooring toward minus infinity (00_scope R12). -/
def asr (a : Int) (k : Nat) : Int := a / 2 ^ k

/-- `cmul(x, g)`, the centred multiply of a sample by a gain word (00_scope R12). -/
def cmul (x g : Int) : Int := Config.centre + asr ((x - Config.centre) * g) 10

/-- `lerp(a, b, el, dur)`, used only with 0 <= el < dur (00_scope R12). -/
def lerp (a b : Int) (el dur : Nat) : Int := a + ((b - a) * (el : Int)) / (dur : Int)

/-- Elapsed microseconds from time stamp `t0` to `now`, modulo 2^32 (00_scope R13). -/
def elapsed (now t0 : Time) : Nat := (now - t0).toNat

/-- `wrap32(v)`: an integer reduced to 32-bit two's complement (44_filter R242). -/
def wrap32 (v : Int) : Int := (v + 2147483648) % 4294967296 - 2147483648

end Sys2Proof.Machine
end

