-- ==== Sys2Proof/Machine/Params.lean ====
section
/-! DEFINITION. The configuration's default and legal values (spec 00_scope R9, 43_lfo R212, 40_oscillator_bank R128), and
the parameters derived from others. A model takes the parameters as its configuration: every definition of the machine
reads them from the state's `params`, and the statements hold for all of them (log 8). -/

namespace Sys2Proof

/-! ## The note to increment table (40_oscillator_bank R128) -/

/-- Entries 0 to 63 of INC_TABLE. -/
def incPart0 : List Int :=
  [116639, 123574, 130923, 138708, 146956, 155694, 164952, 174761,
   185152, 196162, 207827, 220185, 233277, 247149, 261845, 277415,
   293911, 311388, 329904, 349521, 370305, 392324, 415653, 440369,
   466555, 494298, 523690, 554830, 587822, 622776, 659808, 699043,
   740610, 784649, 831306, 880738, 933110, 988595, 1047380, 1109661,
   1175645, 1245552, 1319617, 1398085, 1481220, 1569297, 1662613, 1761477,
   1866220, 1977191, 2094761, 2219322, 2351289, 2491104, 2639233, 2796170,
   2962439, 3138595, 3325225, 3522954, 3732439, 3954382, 4189521, 4438643]

/-- Entries 64 to 127 of INC_TABLE. -/
def incPart1 : List Int :=
  [4702579, 4982209, 5278466, 5592340, 5924878, 6277190, 6650451, 7045907,
   7464879, 7908763, 8379043, 8877287, 9405158, 9964417, 10556933, 11184680,
   11849756, 12554379, 13300902, 14091814, 14929757, 15817527, 16758086, 17754574,
   18810315, 19928835, 21113865, 22369361, 23699512, 25108759, 26601803, 28183629,
   29859514, 31635054, 33516172, 35509147, 37620631, 39857670, 42227730, 44738722,
   47399025, 50217517, 53203606, 56367257, 59719029, 63270107, 67032343, 71018294,
   75241262, 79715340, 84455461, 89477444, 94798049, 100435035, 106407212, 112734515,
   119438058, 126540214, 134064687, 142036588, 150482523, 159430680, 168910921, 178954887]


/-! ## The default -/

/-- The spec's own choice of every parameter (00_scope R9, 43_lfo R212). -/
def Params.standard : Params where
  lfoTickHz := 22050
  envTickHz := 22050
  timeUnitUs := 1
  fracBits := 20
  incMax := 314572800
  noteRef := 60
  noteMin := -60
  noteMax := 67
  incTable := incPart0 ++ incPart1
  octMin := -3
  octMax := 3
  detuneMax := 1048575
  spreadMax := 1048575
  bitMunchMax := 11
  gainSlope := 3
  shaperGen := .listed
  nShaperType := 4
  loadRampStep := 1
  envClickThresh := 10
  envClickStep := 5
  fxShift := 8
  fxUnity := 256
  lfoTicksMin := 1
  lfoTicksMax := 65535
  uiRefreshDiv := 441
  arrowDiv := 2205
  blinkDiv := 5512
  heldCap := 10
  divTable := #v[48, 24, 12, 6]
  swingMax := 1023
  seqDurMap := .identity
  lfoPitchKnee := 512
  lfoPitchBoost := 4
  lfoPitchShift := 2
  lfoCutShift := 13
  lfoAmpShift := 12
  lfoPwShift := 11
  lfoPwMinDepth := 8
  lfoOctShift := 19
  envCutShift := 12
  envRateShift := 10
  velPitchMul := 8
  velCutShift := 9
  velPwShift := 7
  syncPulses := #v[48, 96, 192, 384, 768]
  syncEighths := #v[1, 2, 4, 8, 16]

/-! ## Derived parameters -/

/-- 2^FRAC_BITS: one entry of a wavetable, as a distance between phases (40_oscillator_bank R121). -/
def Params.fracUnit (p : Params) : Int := ((2 ^ p.fracBits : Nat) : Int)

/-- CYCLE = TABLE_LEN × 2^FRAC_BITS: one full cycle of a phase accumulator. -/
def Params.cycle (p : Params) : Int := 600 * p.fracUnit

/-- CUT_MAX = RES_MAX = 2^FX_SHIFT - 1 (44_filter R241). -/
def Params.coefMax (p : Params) : Int := ((2 ^ p.fxShift : Nat) : Int) - 1

/-- INC_TABLE[n]. The caller clamps n into 0..127 (40_oscillator_bank R127). -/
def Params.incOf (p : Params) (n : Int) : Int := p.incTable.getD n.toNat 0

/-! ## The legal values -/

/-- The values a configuration may have: the constraints of 00_scope R9 and, DEDUCED, what keeps every field of 10_state
inside the range its rule states (log 8). -/
structure Params.Legal (p : Params) : Prop where
  rates : 0 < p.lfoTickHz ∧ 0 < p.envTickHz ∧ p.timeUnitUs = 1
  frac : 600 * 2 ^ p.fracBits < 2 ^ 32
  incMax : 0 < p.incMax ∧ p.incMax < p.cycle
  notes : 0 ≤ p.noteRef + p.noteMin ∧ p.noteMin ≤ p.noteMax ∧ p.noteRef + p.noteMax ≤ 127
  noteRef : 0 ≤ p.noteRef ∧ p.noteRef ≤ 127
  incTable : p.incTable.length = 128 ∧ ∀ x ∈ p.incTable, 0 ≤ x ∧ x ≤ p.incMax
  oct : p.octMin ≤ 0 ∧ 0 ≤ p.octMax
  detune : 0 ≤ p.detuneMax
  spread : 0 ≤ p.spreadMax
  bitMunch : p.bitMunchMax ≤ 11
  gainSlope : 0 ≤ p.gainSlope
  shaper : 1 ≤ p.nShaperType
  ramp : 1 ≤ p.loadRampStep ∧ p.loadRampStep ≤ 1023
  click : 0 ≤ p.envClickThresh ∧ p.envClickThresh ≤ 1023 ∧ 1 ≤ p.envClickStep ∧ p.envClickStep ≤ p.envClickThresh + 1
  fx : 0 < p.fxShift ∧ (p.fxUnity = p.coefMax + 1 ∨ p.fxUnity = p.coefMax)
  ticks : 1 ≤ p.lfoTicksMin ∧ p.lfoTicksMin ≤ p.lfoTicksMax ∧ p.lfoTicksMax < 2 ^ 32
  ui : 0 < p.uiRefreshDiv ∧ 0 < p.arrowDiv ∧ 0 < p.blinkDiv
  heldCap : 1 ≤ p.heldCap
  div : ∀ k : Fin 4, 2 ≤ p.divTable[k] ∧ p.divTable[k] % 2 = 0
  swing : 0 < p.swingMax
  lfoAmp : 12 ≤ p.lfoAmpShift
  envCut : 12 ≤ p.envCutShift
  velPitch : 0 ≤ p.velPitchMul
  velCut : 9 ≤ p.velCutShift
  velPw : 7 ≤ p.velPwShift
  syncPulses : ∀ k : Fin 5, 31250 * p.syncPulses[k] * p.lfoTickHz < 2 ^ 32 * 600000000
  syncEighths : ∀ k : Fin 5, p.syncEighths[k] ≤ 16

end Sys2Proof
end

