-- ==== Sys2Proof/Syntax.lean ====
section
/-! DEFINITION. The operations of TB2Q-CORE: one constructor per row of spec/opcode_table.json (30_encoding R102), with
the fields the operation reads and no others (R103). ADDR stands split where the spec splits it: SEQ_WRITE reads
ADDR[11:8], ADDR[7:4], ADDR[3:0] (R108), SEQ_EDIT reads ADDR[3:0] (47_sequencer R334). -/

namespace Sys2Proof

/-- An operation, the block's instruction (00_scope R18). -/
inductive Instr where
  /-- NOP, OP 0x00 (70_reset_and_hazards R441). -/
  | nop
  /-- AUDIO_TICK, OP 0x01 (41_audio_mixer R150). -/
  | audioTick
  /-- LFO_TICK, OP 0x02 (43_lfo R217). -/
  | lfoTick
  /-- ENV_TICK, OP 0x03 (42_envelope R188). -/
  | envTick
  /-- CLOCK_TICK, OP 0x04 (46_clock R275). -/
  | clockTick
  /-- RESET, OP 0x05 (70_reset_and_hazards R440). -/
  | reset
  /-- LOAD_MUTE, OP 0x06 (41_audio_mixer R167). DATA unsigned: 1 begin, 0 end. -/
  | loadMute (data : DataField)
  /-- SET_MASTER_VOL, OP 0x07 (41_audio_mixer R169). DATA unsigned: 0..1023. -/
  | setMasterVol (data : DataField)
  /-- CLR_STATUS, OP 0x08 (60_exceptions R412). DATA unsigned: mask of sticky bits to clear. -/
  | clrStatus (data : DataField)
  /-- REPORT_STORE_ERR, OP 0x09 (60_exceptions R414). -/
  | reportStoreErr
  /-- SET_BITMUNCH, OP 0x0A (41_audio_mixer R158). DATA unsigned: 0..11. -/
  | setBitmunch (data : DataField)
  /-- OUTBOX_DRAIN, OP 0x0B (60_exceptions R425). -/
  | outboxDrain
  /-- SET_WAVE, OP 0x10 (40_oscillator_bank R130). SEL engine 0..1; DATA unsigned: 0..7. -/
  | setWave (sel : SelField) (data : DataField)
  /-- SET_OCTAVE, OP 0x11 (40_oscillator_bank R131). SEL engine 0..1; DATA signed: OCT_MIN..OCT_MAX. -/
  | setOctave (sel : SelField) (data : DataField)
  /-- SET_VOLUME, OP 0x12 (40_oscillator_bank R133). SEL engine 0..1; DATA unsigned: 0..1023. -/
  | setVolume (sel : SelField) (data : DataField)
  /-- SET_DETUNE, OP 0x13 (40_oscillator_bank R134). SEL engine 0..1; DATA signed: -DETUNE_MAX..DETUNE_MAX. -/
  | setDetune (sel : SelField) (data : DataField)
  /-- SET_PW, OP 0x14 (40_oscillator_bank R135). DATA unsigned: 0..1023. -/
  | setPw (data : DataField)
  /-- WRITE_WAVETABLE, OP 0x15 (40_oscillator_bank R137). SEL user table 0..2; ADDR index 0..599; DATA unsigned: 0..4095. -/
  | writeWavetable (sel : SelField) (addr : AddrField) (data : DataField)
  /-- SET_ATTACK, OP 0x20 (42_envelope R181). DATA unsigned: microseconds. -/
  | setAttack (data : DataField)
  /-- SET_DECAY, OP 0x21 (42_envelope R182). DATA unsigned: microseconds. -/
  | setDecay (data : DataField)
  /-- SET_SUSTAIN, OP 0x22 (42_envelope R183). DATA unsigned: 0..1023. -/
  | setSustain (data : DataField)
  /-- SET_RELEASE, OP 0x23 (42_envelope R184). DATA unsigned: microseconds. -/
  | setRelease (data : DataField)
  /-- ENV_TRIGGER, OP 0x24 (42_envelope R185). DATA unsigned: velocity 0..127. -/
  | envTrigger (data : DataField)
  /-- ENV_RELEASE, OP 0x25 (42_envelope R192). -/
  | envRelease
  /-- SET_LFO_SHAPE, OP 0x30 (43_lfo R232). DATA unsigned: 0..7. -/
  | setLfoShape (data : DataField)
  /-- SET_LFO_RATE, OP 0x31 (43_lfo R233). DATA unsigned: LFO_TICKS_MIN..LFO_TICKS_MAX. -/
  | setLfoRate (data : DataField)
  /-- SET_LFO_RANGE, OP 0x32 (43_lfo R234). DATA unsigned: 0..3. -/
  | setLfoRange (data : DataField)
  /-- SET_LFO_RETRIG, OP 0x33 (43_lfo R235). DATA unsigned: 0..1. -/
  | setLfoRetrig (data : DataField)
  /-- SET_LFO_SYNC, OP 0x34 (43_lfo R236). DATA unsigned: 0..5. -/
  | setLfoSync (data : DataField)
  /-- LFO_SYNC_RESET, OP 0x35 (43_lfo R228). -/
  | lfoSyncReset
  /-- SET_MOD, OP 0x36 (43_lfo R237). SEL slot 0..16; DATA unsigned: 0..1023. -/
  | setMod (sel : SelField) (data : DataField)
  /-- SET_CUTOFF, OP 0x40 (44_filter R248). DATA unsigned: 0..255. -/
  | setCutoff (data : DataField)
  /-- SET_RESONANCE, OP 0x41 (44_filter R249). DATA unsigned: 0..255. -/
  | setResonance (data : DataField)
  /-- SET_FILTER_MODE, OP 0x42 (44_filter R250). DATA unsigned: 0..2. -/
  | setFilterMode (data : DataField)
  /-- SET_FILTER_BYPASS, OP 0x43 (44_filter R251). DATA unsigned: 0..1. -/
  | setFilterBypass (data : DataField)
  /-- SET_SHAPER, OP 0x48 (45_waveshaper_gain R258). SEL type 0..N_SHAPER_TYPE-1; DATA unsigned: amount 0..1023. -/
  | setShaper (sel : SelField) (data : DataField)
  /-- SET_GAIN, OP 0x49 (45_waveshaper_gain R262). DATA unsigned: 0..1023. -/
  | setGain (data : DataField)
  /-- SET_BPM, OP 0x50 (46_clock R271). DATA unsigned: 20..320. -/
  | setBpm (data : DataField)
  /-- SET_DIVISION, OP 0x51 (46_clock R272). DATA unsigned: 0..3. -/
  | setDivision (data : DataField)
  /-- EXT_CLOCK, OP 0x52 (46_clock R283). -/
  | extClock
  /-- EXT_START, OP 0x53 (46_clock R287). -/
  | extStart
  /-- EXT_STOP, OP 0x54 (46_clock R288). -/
  | extStop
  /-- SET_MIDI_SYNC, OP 0x55 (46_clock R289). DATA unsigned: bit 0 clock out, bit 1 obey clock in. -/
  | setMidiSync (data : DataField)
  /-- CLOCK_POLL, OP 0x56 (46_clock R286). -/
  | clockPoll
  /-- SEQ_START, OP 0x60 (47_sequencer R301). -/
  | seqStart
  /-- SEQ_STOP, OP 0x61 (47_sequencer R302). -/
  | seqStop
  /-- SEQ_SELECT, OP 0x62 (47_sequencer R303). SEL sequence 0..7. -/
  | seqSelect (sel : SelField)
  /-- SET_PLAY_MODE, OP 0x63 (47_sequencer R304). DATA unsigned: 0..5. -/
  | setPlayMode (data : DataField)
  /-- SET_BANK_MODE, OP 0x64 (47_sequencer R305). DATA unsigned: 0..4. -/
  | setBankMode (data : DataField)
  /-- SEQ_WRITE, OP 0x65 (47_sequencer R330). SEL sequence 0..7; ADDR field, sub, step (30_encoding.md rule R108); DATA per field. -/
  | seqWrite (sel : SelField) (field : BitVec 4) (sub : BitVec 4) (step : BitVec 4) (data : DataField)
  /-- SEQ_SET_PARAM, OP 0x66 (47_sequencer R331). SEL sequence 0..7; ADDR parameter 0..5; DATA per parameter. -/
  | seqSetParam (sel : SelField) (addr : AddrField) (data : DataField)
  /-- SEQ_COPY, OP 0x6C (47_sequencer R332). SEL source 0..7; ADDR destination 0..7. -/
  | seqCopy (sel : SelField) (addr : AddrField)
  /-- SEQ_CLEAR, OP 0x6D (47_sequencer R333). SEL sequence 0..7. -/
  | seqClear (sel : SelField)
  /-- SEQ_EDIT, OP 0x6E (47_sequencer R334). ADDR step 0..15; DATA unsigned: 0..1. -/
  | seqEdit (step : BitVec 4) (data : DataField)
  /-- ARP_ENABLE, OP 0x70 (48_arpeggiator R341). DATA unsigned: 0..1. -/
  | arpEnable (data : DataField)
  /-- SET_ARP_DIR, OP 0x73 (48_arpeggiator R342). DATA unsigned: 0..1. -/
  | setArpDir (data : DataField)
  /-- SET_ARP_STEP_MODE, OP 0x74 (48_arpeggiator R343). DATA unsigned: 0..4. -/
  | setArpStepMode (data : DataField)
  /-- SET_ARP_OCT_RANGE, OP 0x75 (48_arpeggiator R344). DATA unsigned: 0..3. -/
  | setArpOctRange (data : DataField)
  /-- SET_ARP_NOTE_DUR, OP 0x76 (48_arpeggiator R345). DATA unsigned: 1..95. -/
  | setArpNoteDur (data : DataField)
  /-- SET_ARP_SOURCE, OP 0x77 (48_arpeggiator R346). DATA unsigned: 0..1. -/
  | setArpSource (data : DataField)
  /-- SET_ARP_MONO, OP 0x78 (48_arpeggiator R347). DATA unsigned: 0..1. -/
  | setArpMono (data : DataField)
  /-- KEY_ON, OP 0x80 (49_voice_allocator R375). ADDR note, 16-bit signed; DATA unsigned: velocity 0..127. -/
  | keyOn (addr : AddrField) (data : DataField)
  /-- KEY_OFF, OP 0x81 (49_voice_allocator R376). ADDR note, 16-bit signed. -/
  | keyOff (addr : AddrField)
  /-- SET_VOICE_MODE, OP 0x82 (49_voice_allocator R377). DATA unsigned: 0..3. -/
  | setVoiceMode (data : DataField)
  /-- SET_UNISON, OP 0x83 (49_voice_allocator R378). DATA unsigned: 0..3. -/
  | setUnison (data : DataField)
  /-- SET_UNISON_SPREAD, OP 0x84 (49_voice_allocator R379). DATA unsigned: 0..SPREAD_MAX. -/
  | setUnisonSpread (data : DataField)
  /-- SET_PORTAMENTO, OP 0x85 (49_voice_allocator R380). DATA unsigned: microseconds. -/
  | setPortamento (data : DataField)
  /-- SET_VOICE, OP 0x86 (49_voice_allocator R381). SEL voice 0..3; DATA optional (0x80000000 = none), signed: note or none. -/
  | setVoice (sel : SelField) (data : DataField)
  deriving DecidableEq, Repr

end Sys2Proof
end

