-- ==== Sys2Proof/Machine/State.lean ====
section
/-! DEFINITION. The state of TB2Q-CORE as plain data. `Block` is the block's own state: everything 10_state and 20_memory
name, and the ports of 30_encoding R100 that hold a value. `State` is what the host's step takes: the block, its
configuration and the inputs of the step, which 10_state R57 passes to a step and the block does not store (log 15).
Fields carry the spec's names; the docstring of each group cites the rule that names it. The ranges the spec states are
an invariant (Sys2Proof/Safety.lean), as 00_scope R11 suggests. -/

namespace Sys2Proof.Machine

/-! ## Closed sets of names -/

/-- The eight wave selections, numbered 0 to 7 in this order (10_state R27). -/
inductive Wave where
  | sine | triangle | saw | square | user1 | user2 | user3 | noise
  deriving DecidableEq, Repr

/-- The stages of the envelope, numbered 0 to 4 in this order (10_state R31, 42_envelope R180). -/
inductive Stage where
  | idle | attack | decay | sustain | release
  deriving DecidableEq, Repr

/-- `lfoSync`, 0 to 5 in this order (10_state R38): free-running or one of five musical divisions. -/
inductive LfoSync where
  | free | eighth | quarter | half | whole | doubleWhole
  deriving DecidableEq, Repr

/-- `fMode`, 0 to 2 in this order (10_state R41, 44_filter R244). -/
inductive FilterMode where
  | lowPass | bandPass | highPass
  deriving DecidableEq, Repr

/-- `voiceMode`, 0 to 3 in this order (10_state R43). -/
inductive VoiceMode where
  | paraphonic | monoHighest | monoLowest | monoLast
  deriving DecidableEq, Repr

/-- `playMode`, 0 to 5 in this order (10_state R47). -/
inductive PlayMode where
  | forward | reverse | pendulum | randomInterval | drunk | random
  deriving DecidableEq, Repr

/-- `bankMode`, 0 to 4 in this order (10_state R47). -/
inductive BankMode where
  | none | loop2 | loop4 | loop8 | random
  deriving DecidableEq, Repr

/-- `arpDir`, 0 and 1 in this order (10_state R50). -/
inductive ArpDir where
  | forward | backward
  deriving DecidableEq, Repr

/-- `arpStepMode`, 0 to 4 in this order (10_state R50). -/
inductive ArpStepMode where
  | step1 | step2 | step3 | random | twoForwardOneBack
  deriving DecidableEq, Repr

/-- `arpSource`, 0 and 1 in this order (10_state R50). -/
inductive ArpSource where
  | frontPanel | midi
  deriving DecidableEq, Repr

/-- The slots of the modulation matrix, 0 to 16 in this order (10_state R36). -/
inductive ModSlot where
  | envPitch1 | envPitch2 | envCut | envRate
  | lfoPitch1 | lfoPitch2 | lfoCut | lfoAmp | lfoPw | lfoOct1 | lfoOct2
  | velPitch1 | velPitch2 | velCut | velAmp | velPw | velRate
  deriving DecidableEq, Repr

/-- The request ports that are served in order of arrival (60_exceptions R416). -/
inductive Strobe where
  | lfo | env | clk
  deriving DecidableEq, Repr

/-! ## The oscillator file -/

/-- An oscillator's phase accumulator, its increment and its portamento bookkeeping (10_state R21, R22, R23). -/
structure Osc where
  phase     : Int
  inc       : Int
  lastTgt   : Int
  tgtValid  : Bool
  portaFrom : Int
  deriving DecidableEq, Repr

/-- A voice record (10_state R24) and the voice's glide clock (10_state R23). -/
structure Voice where
  note       : Option Note
  sounding   : Bool
  muteOnTrig : Bool
  key        : Option Note
  portaT0    : Time
  gliding    : Bool
  deriving DecidableEq, Repr

/-- An engine's configuration (10_state R27). -/
structure Engine where
  wave   : Wave
  octave : Int
  volume : Int
  detune : Int
  deriving DecidableEq, Repr

/-- Pulse width (10_state R28): `pwKnob`, `pwEff`, `pwEdge`. -/
structure PulseWidth where
  knob : Int
  eff  : Int
  edge : Int
  deriving DecidableEq, Repr

/-- Mixer configuration, the load ramp and the output registers (10_state R29, R30). -/
structure Mixer where
  bitMunch  : Nat
  loadMute  : Bool
  loadRamp  : Int
  masterVol : Int
  outL      : Sample
  outR      : Sample
  deriving DecidableEq, Repr

/-! ## Envelope, LFO, velocity, filter, shaper -/

/-- Envelope state and configuration (10_state R31, R32). -/
structure Envelope where
  stage       : Stage
  amp         : Int
  t0          : Time
  start       : Int
  trigPending : Bool
  pendVel     : Int
  attack      : Nat
  decay       : Nat
  sustain     : Int
  release     : Nat
  deriving DecidableEq, Repr

/-- Envelope modulation outputs (10_state R33): `envPitch`, `envCut`, `envRate`. -/
structure EnvMod where
  pitch : Vector Int 2
  cut   : Int
  rate  : Int
  deriving DecidableEq, Repr

/-- LFO modulation outputs (10_state R34): `lfoPitch`, `lfoCut`, `lfoAmpMod`, `lfoPw`, `lfoOct`. -/
structure LfoMod where
  pitch  : Vector Int 2
  cut    : Int
  ampMod : Int
  pw     : Int
  oct    : Vector Int 2
  deriving DecidableEq, Repr

/-- One copy of the velocity modulation (10_state R35): pitch, cut, amp, pw, rate. -/
structure VelMod where
  pitch : Vector Int 2
  cut   : Int
  amp   : Int
  pw    : Int
  rate  : Int
  deriving DecidableEq, Repr

/-- LFO state and configuration (10_state R37, R38). -/
structure Lfo where
  index      : Nat
  counter    : Nat
  val        : Int
  eighthSync : Nat
  shape      : Wave
  rate       : Int
  range      : Nat
  retrig     : Bool
  sync       : LfoSync
  deriving DecidableEq, Repr

/-- UI timing state (10_state R39). -/
structure Ui where
  uiCounter    : Nat
  arrowCounter : Nat
  blinkCounter : Nat
  refreshDue   : Bool
  arrowFrame   : Nat
  blinkOn      : Bool
  deriving DecidableEq, Repr

/-- Filter state and configuration (10_state R40, R41). -/
structure Filter where
  lp0       : Int
  lp1       : Int
  cutEff    : Int
  fb        : Int
  cutoff    : Int
  resonance : Int
  mode      : FilterMode
  bypass    : Bool
  deriving DecidableEq, Repr

/-- Waveshaper and gain parameters (10_state R42); `shaperType` is a number below N_SHAPER_TYPE. -/
structure ShapeParams where
  shaperType   : Nat
  shaperAmount : Int
  gainAmount   : Int
  deriving DecidableEq, Repr

/-! ## Allocator, clock, sequencer, arpeggiator -/

/-- Voice-allocator configuration and working state (10_state R43). `held` lists the entries of `held[]` in use, oldest
first; `heldCount` is its length (log 10). -/
structure Alloc where
  voiceMode    : VoiceMode
  unisonCount  : Nat
  unisonSpread : Int
  unisonOff    : Vector Int 4
  portaTime    : Nat
  held         : List Note
  deriving DecidableEq, Repr

/-- Clock state and configuration (10_state R44, R45). -/
structure Clock where
  pulse          : Nat
  eighth         : Nat
  div            : Nat
  swingOffset    : Nat
  receivingClock : Bool
  bpm            : Nat
  periodUs       : Nat
  outClockPhase  : Nat
  beatLed        : Bool
  freeLatch      : Bool
  divSel         : Nat
  midiClockOut   : Bool
  extSyncEnable  : Bool
  deriving DecidableEq, Repr

/-- External-sync working state (10_state R46). -/
structure ExtSync where
  lastExtTime : Time
  extSeen     : Bool
  extPulse    : Nat
  bpmBuf      : Vector Nat 24
  bpmBufCount : Nat
  bpmBufIdx   : Fin 24
  deriving DecidableEq, Repr

/-- Sequencer transport (10_state R47). -/
structure Transport where
  running  : Bool
  step     : Nat
  cur      : Fin 8
  sel      : Fin 8
  src      : Fin 8
  dst      : Fin 8
  playMode : PlayMode
  bankMode : BankMode
  pendRel  : Option Nat
  dir      : Int
  mag      : Int
  edit     : Bool
  editStep : Fin 16
  deriving DecidableEq, Repr

/-- A Sequence record, 186 fields (20_memory R79). A rest is `none`. -/
structure Sequence where
  notes         : Vector (Vector (Option Note) 16) 4
  tie           : Vector Bool 16
  mute          : Vector Bool 16
  vel           : Vector Int 16
  ccNum         : Vector Nat 4
  ccVal         : Vector (Vector Nat 16) 4
  noteDuration  : Nat
  divSelection  : Nat
  patternLength : Nat
  transpose     : Int
  swing         : Nat
  bpm           : Nat
  deriving DecidableEq, Repr

/-- Arpeggiator state and configuration (10_state R49, R50). `raw` lists the entries of `arpRaw[]` in use and `arpCount`
is its length; `sorted` lists the entries of `arpSorted[]` up to the first `none` (log 10). -/
structure Arp where
  raw      : List Note
  sorted   : List Note
  len      : Nat
  pos      : Nat
  oct      : Nat
  pendRel  : Option Nat
  fresh    : Bool
  back     : Bool
  restart  : Bool
  note     : Option Note
  vel      : Int
  on       : Bool
  dir      : ArpDir
  stepMode : ArpStepMode
  octRange : Nat
  dur      : Nat
  source   : ArpSource
  mono     : Bool
  deriving DecidableEq, Repr

/-- A sequencer note-on batch: four optional notes and a velocity (10_state R51). -/
structure SeqOn where
  notes : Vector (Option Note) 4
  vel   : Int
  deriving DecidableEq, Repr

/-- The outbox (10_state R51). -/
structure Outbox where
  arpOn    : Option (Note × Int)
  arpOff   : Option Note
  seqOn    : Option SeqOn
  seqOff   : Option (Vector (Option Note) 4)
  clock    : Nat
  seqNotes : Vector (Option Note) 4
  deriving DecidableEq, Repr

/-- The sticky bits of STATUS (10_state R52). The live bits are functions of the state (60_exceptions R411). -/
structure Status where
  storageFail : Bool
  illegalCmd  : Bool
  deriving DecidableEq, Repr

/-! ## Table memories -/

/-- The contents of one table memory: (index, word) pairs with strictly rising indices, none equal to the word an
unlisted index reads as (log 9). -/
abbrev Table := List (Nat × Sample)

/-- The writable table memories (20_memory R70): the user wavetables WT[4..6], VOL[0..1], SHAPER, GAIN and the Sequence
records SEQ[0..7]. -/
structure Memory where
  user   : Vector Table 3
  vol    : Vector Table 2
  shaper : Table
  gain   : Table
  seq    : Vector Sequence 8
  deriving DecidableEq, Repr

/-! ## Ports and inputs -/

/-- What the platform does at one instant: NOW reads `now`, the request ports marked are pulsed, and the host puts a
command word in line on CMD (30_encoding R100). -/
structure PortEvent where
  now   : Time
  audio : Bool
  lfo   : Bool
  env   : Bool
  clk   : Bool
  cmd   : Option CmdWord
  deriving DecidableEq, Repr

/-- The ports that hold a value (30_encoding R100): the pending latches of the request ports (60_exceptions R418),
CMD_READY and the response. -/
structure Ports where
  audioReq  : Bool
  strobes   : List Strobe
  cmdReady  : Bool
  rspValid  : Bool
  rsp       : RspWord
  deriving DecidableEq, Repr

/-- The inputs of a step but for the configuration (10_state R57): `now`; the draws, as the words RND supplies next and
the count of words it has supplied (log 5); the command words in line on CMD; and what the platform does in the time of
each operation to come (log 2). -/
structure Inputs where
  now       : Time
  rnd       : List Sample
  drawCount : Nat
  cmdQueue  : List CmdWord
  arrivals  : List (List PortEvent)
  deriving DecidableEq, Repr

/-! ## The machine's state -/

/-- The state of the block. -/
structure Block where
  osc     : Vector Osc 8
  voices  : Vector Voice 4
  engines : Vector Engine 2
  pw      : PulseWidth
  mixer   : Mixer
  env     : Envelope
  envMod  : EnvMod
  lfo     : Lfo
  lfoMod  : LfoMod
  qVel    : VelMod
  vel     : VelMod
  matrix  : Vector Int 17
  ui      : Ui
  filter  : Filter
  shape   : ShapeParams
  alloc   : Alloc
  clock   : Clock
  ext     : ExtSync
  seq     : Transport
  arp     : Arp
  outbox  : Outbox
  status  : Status
  mem     : Memory
  ports   : Ports
  deriving DecidableEq, Repr

/-- What a step takes and gives: the block, its configuration, and the inputs not yet consumed (10_state R57; log 15). -/
structure State extends Block where
  params : Params
  inputs : Inputs
  deriving DecidableEq, Repr

/-- Why the machine stops. The spec gives the block no fatal condition (60_exceptions R410). -/
inductive Fault where
  /-- A table memory or a pattern is indexed outside the words it has: raised by AUDIO_TICK, LFO_TICK and CLOCK_TICK in a
  state outside the invariants of 10_state R55, where an index made inside the block is not in range (20_memory R83).
  SAFE: the model stops where the spec describes no access. Log 11. -/
  | tableIndex
  deriving DecidableEq, Repr

/-- Why the machine gives an instruction no meaning. -/
inductive Refusal where
  /-- The instruction of this mnemonic has no meaning yet: raised by an arm of `exec`. SAFE. No arm raises it: every
  operation is modelled. -/
  | notModelled (mnemonic : String)
  deriving DecidableEq, Repr

/-- What an operation answers. -/
abbrev Result := Host.Outcome State Fault Refusal

/-! ## Reset (70_reset_and_hazards R440, R442, R444, R445) -/

/-- The cleared Sequence (20_memory R79, 47_sequencer R333). -/
def Sequence.cleared : Sequence where
  notes := Vector.replicate 4 (Vector.replicate 16 none)
  tie := Vector.replicate 16 false
  mute := Vector.replicate 16 false
  vel := Vector.replicate 16 100
  ccNum := Vector.replicate 4 0
  ccVal := Vector.replicate 4 (Vector.replicate 16 0)
  noteDuration := 6
  divSelection := 2
  patternLength := 16
  transpose := 0
  swing := 0
  bpm := 120

/-- No velocity modulation (10_state R35). -/
def VelMod.neutral : VelMod where
  pitch := Vector.replicate 2 0
  cut := 0
  amp := 1023
  pw := 0
  rate := 0

/-- The block right after reset. Every value is the spec's (70_reset_and_hazards R442, R444, R445), but for `cmdReady`
and `rsp` (DESIGN CHOICE: log 6, 7). `cutEff`, `cutoff` and `lfoRate` are the spec's 255, 255 and 37 brought into the
range of the configuration, and `div` is DIV_TABLE[2] (10_state R45): under the default configuration the literals the
spec lists (log 8). -/
def Block.reset (p : Params) : Block where
  osc := Vector.replicate 8 { phase := 0, inc := 0, lastTgt := 0, tgtValid := false, portaFrom := 0 }
  voices := Vector.replicate 4
    { note := none, sounding := false, muteOnTrig := false, key := none, portaT0 := 0#32, gliding := false }
  engines := Vector.replicate 2 { wave := .sine, octave := 0, volume := 1023, detune := 0 }
  pw := { knob := 512, eff := 512, edge := 300 }
  mixer := { bitMunch := 0, loadMute := false, loadRamp := 1023, masterVol := 1023, outL := 2048#12, outR := 2048#12 }
  env := { stage := .idle, amp := 0, t0 := 0#32, start := 0, trigPending := false, pendVel := 127,
           attack := 0, decay := 0, sustain := 1023, release := 0 }
  envMod := { pitch := Vector.replicate 2 0, cut := 0, rate := 0 }
  lfo := { index := 0, counter := 0, val := 2048, eighthSync := 0, shape := .sine,
           rate := max p.lfoTicksMin (min p.lfoTicksMax 37), range := 0, retrig := false, sync := .free }
  lfoMod := { pitch := Vector.replicate 2 0, cut := 0, ampMod := 0, pw := 0, oct := Vector.replicate 2 0 }
  qVel := VelMod.neutral
  vel := VelMod.neutral
  matrix := Vector.replicate 17 0
  ui := { uiCounter := 0, arrowCounter := 0, blinkCounter := 0, refreshDue := false, arrowFrame := 0, blinkOn := false }
  filter := { lp0 := 0, lp1 := 0, cutEff := min 255 p.coefMax, fb := 0, cutoff := min 255 p.coefMax, resonance := 0,
              mode := .lowPass, bypass := false }
  shape := { shaperType := 0, shaperAmount := 0, gainAmount := 0 }
  alloc := { voiceMode := .paraphonic, unisonCount := 0, unisonSpread := 0, unisonOff := Vector.replicate 4 0,
             portaTime := 0, held := [] }
  clock := { pulse := 0, eighth := 0, div := p.divTable[2], swingOffset := 0, receivingClock := false, bpm := 120,
             periodUs := 5208, outClockPhase := 0, beatLed := false, freeLatch := false, divSel := 2,
             midiClockOut := false, extSyncEnable := true }
  ext := { lastExtTime := 0#32, extSeen := false, extPulse := 0, bpmBuf := Vector.replicate 24 0, bpmBufCount := 0,
           bpmBufIdx := 0 }
  seq := { running := false, step := 0, cur := 0, sel := 0, src := 0, dst := 0, playMode := .forward,
           bankMode := .none, pendRel := none, dir := 1, mag := 1, edit := false, editStep := 0 }
  arp := { raw := [], sorted := [], len := 0, pos := 0, oct := 0, pendRel := none, fresh := true, back := false,
           restart := false, note := none, vel := 100, on := false, dir := .forward, stepMode := .step1,
           octRange := 0, dur := 6, source := .frontPanel, mono := false }
  outbox := { arpOn := none, arpOff := none, seqOn := none, seqOff := none, clock := 0,
              seqNotes := Vector.replicate 4 none }
  status := { storageFail := false, illegalCmd := false }
  mem := { user := Vector.replicate 3 [], vol := Vector.replicate 2 [], shaper := [], gain := [],
           seq := Vector.replicate 8 Sequence.cleared }
  ports := { audioReq := false, strobes := [], cmdReady := false, rspValid := false, rsp := 0#160 }

/-- The inputs where the platform does nothing: NOW reads 0, no command word waits, nothing arrives, and every word of RND
is free (DESIGN CHOICE: log 2, 4, 5, 6). -/
def Inputs.idle : Inputs where
  now := 0#32
  rnd := []
  drawCount := 0
  cmdQueue := []
  arrivals := []

/-- The machine right after reset, under a configuration. -/
def State.resetWith (p : Params) : State where
  toBlock := Block.reset p
  params := p
  inputs := Inputs.idle

/-- The machine right after reset, under the default configuration. -/
def State.reset : State := State.resetWith Params.standard

/-! ## Replacing one part of the state. Sys2Proof/Laws/State.lean holds one lemma per part per replacement. -/

/-- The state with `osc` replaced. -/
def State.withOsc (s : State) (x : Vector Osc 8) : State := { s with osc := x }

/-- The state with `voices` replaced. -/
def State.withVoices (s : State) (x : Vector Voice 4) : State := { s with voices := x }

/-- The state with `engines` replaced. -/
def State.withEngines (s : State) (x : Vector Engine 2) : State := { s with engines := x }

/-- The state with `pw` replaced. -/
def State.withPw (s : State) (x : PulseWidth) : State := { s with pw := x }

/-- The state with `mixer` replaced. -/
def State.withMixer (s : State) (x : Mixer) : State := { s with mixer := x }

/-- The state with `env` replaced. -/
def State.withEnv (s : State) (x : Envelope) : State := { s with env := x }

/-- The state with `envMod` replaced. -/
def State.withEnvMod (s : State) (x : EnvMod) : State := { s with envMod := x }

/-- The state with `lfo` replaced. -/
def State.withLfo (s : State) (x : Lfo) : State := { s with lfo := x }

/-- The state with `lfoMod` replaced. -/
def State.withLfoMod (s : State) (x : LfoMod) : State := { s with lfoMod := x }

/-- The state with `qVel` replaced. -/
def State.withQVel (s : State) (x : VelMod) : State := { s with qVel := x }

/-- The state with `vel` replaced. -/
def State.withVel (s : State) (x : VelMod) : State := { s with vel := x }

/-- The state with `matrix` replaced. -/
def State.withMatrix (s : State) (x : Vector Int 17) : State := { s with matrix := x }

/-- The state with `ui` replaced. -/
def State.withUi (s : State) (x : Ui) : State := { s with ui := x }

/-- The state with `filter` replaced. -/
def State.withFilter (s : State) (x : Filter) : State := { s with filter := x }

/-- The state with `shape` replaced. -/
def State.withShape (s : State) (x : ShapeParams) : State := { s with shape := x }

/-- The state with `alloc` replaced. -/
def State.withAlloc (s : State) (x : Alloc) : State := { s with alloc := x }

/-- The state with `clock` replaced. -/
def State.withClock (s : State) (x : Clock) : State := { s with clock := x }

/-- The state with `ext` replaced. -/
def State.withExt (s : State) (x : ExtSync) : State := { s with ext := x }

/-- The state with `seq` replaced. -/
def State.withSeq (s : State) (x : Transport) : State := { s with seq := x }

/-- The state with `arp` replaced. -/
def State.withArp (s : State) (x : Arp) : State := { s with arp := x }

/-- The state with `outbox` replaced. -/
def State.withOutbox (s : State) (x : Outbox) : State := { s with outbox := x }

/-- The state with `status` replaced. -/
def State.withStatus (s : State) (x : Status) : State := { s with status := x }

/-- The state with `mem` replaced. -/
def State.withMem (s : State) (x : Memory) : State := { s with mem := x }

/-- The state with `ports` replaced. -/
def State.withPorts (s : State) (x : Ports) : State := { s with ports := x }

/-- The state with `params` replaced. -/
def State.withParams (s : State) (x : Params) : State := { s with params := x }

/-- The state with `inputs` replaced. -/
def State.withInputs (s : State) (x : Inputs) : State := { s with inputs := x }

end Sys2Proof.Machine
end

