-- ==== Sys2Proof/Machine/Operands.lean ====
section
/-! DEFINITION. The operand forms of a command word (30_encoding R104, R105, R106): DATA unsigned or signed and clamped
into the field's range (60_exceptions R413), DATA as a flag, as an optional note, ADDR as a signed note, SEL and ADDR as
selectors that are never clamped, and DATA as one of a closed set of names. -/

namespace Sys2Proof.Machine

/-! ## Numbers -/

/-- An unsigned operand, `zext_32(DATA)`, clamped (30_encoding R104). -/
def uOperand (lo hi : Int) (data : DataField) : Int := clamp lo hi (data.toNat : Int)

/-- A signed operand, `sext_32(DATA)`, clamped (30_encoding R104). -/
def sOperand (lo hi : Int) (data : DataField) : Int := clamp lo hi data.toInt

/-- An unsigned operand kept as a count, clamped (30_encoding R104). -/
def countOperand (lo hi : Nat) (data : DataField) : Nat := clampNat lo hi data.toNat

/-- A duration in microseconds: the whole unsigned 32-bit range, no clamp (60_exceptions R413). -/
def durationOperand (data : DataField) : Nat := data.toNat

/-- A flag operand: `clamp(0, 1, zext_32(DATA)) = 1`. -/
def flagOperand (data : DataField) : Bool := decide (uOperand 0 1 data = 1)

/-- The sample a WRITE_WAVETABLE stores: `clamp(0, 4095, zext_32(DATA))` (40_oscillator_bank R137). -/
def sampleOperand (data : DataField) : Sample := BitVec.ofInt 12 (uOperand 0 Config.sampleMax data)

/-! ## Notes and velocities (49_voice_allocator R371, 30_encoding R105) -/

/-- A note brought into NOTE_MIN..NOTE_MAX. -/
def clampNote (p : Params) (n : Int) : Note := clamp p.noteMin p.noteMax n

/-- KEY_ON's and KEY_OFF's note: `clamp(NOTE_MIN, NOTE_MAX, sext_16(ADDR))`. -/
def noteOperand (p : Params) (addr : AddrField) : Note := clampNote p addr.toInt

/-- A velocity operand: `clamp(0, 127, zext_32(DATA))`. -/
def velOperand (data : DataField) : Int := uOperand 0 Config.velMax data

/-- The DATA value that stands for `none` on the command port. -/
def noneCode : DataField := 0x80000000#32

/-- An optional note operand (30_encoding R105). -/
def optNoteOperand (p : Params) (data : DataField) : Option Note :=
  if data = noneCode then none else some (clampNote p data.toInt)

/-! ## Selectors and addresses (30_encoding R106, R110) -/

/-- SEL as the number of one of `n` things; `none` where it names nothing. -/
def selOperand (n : Nat) (sel : SelField) : Option (Fin n) :=
  if h : sel.toNat < n then some ⟨sel.toNat, h⟩ else none

/-- ADDR as the number of one of `n` things; `none` where it names nothing. -/
def addrOperand (n : Nat) (addr : AddrField) : Option (Fin n) :=
  if h : addr.toNat < n then some ⟨addr.toNat, h⟩ else none

/-- A 4-bit part of SEQ_WRITE's ADDR as the number of one of `n` things (30_encoding R108, R110). -/
def subOperand (n : Nat) (sub : BitVec 4) : Option (Fin n) :=
  if h : sub.toNat < n then some ⟨sub.toNat, h⟩ else none

/-- A step number ADDR[3:0] (30_encoding R108). -/
def stepOperand (step : BitVec 4) : Fin 16 := step.toFin

/-! ## Closed sets of names, in the order the spec numbers them. The last name stands for its number and every larger
one, which is the clamp. -/

/-- A wave selection, `clamp(0, 7, zext_32(DATA))` (10_state R27). -/
def waveOperand (data : DataField) : Wave :=
  match data.toNat with
  | 0 => .sine | 1 => .triangle | 2 => .saw | 3 => .square | 4 => .user1 | 5 => .user2 | 6 => .user3 | _ => .noise

/-- `clamp(0, 5, zext_32(DATA))` as a sync mode (10_state R38). -/
def lfoSyncOperand (data : DataField) : LfoSync :=
  match data.toNat with
  | 0 => .free | 1 => .eighth | 2 => .quarter | 3 => .half | 4 => .whole | _ => .doubleWhole

/-- `clamp(0, 2, zext_32(DATA))` as a filter mode (44_filter R250). -/
def filterModeOperand (data : DataField) : FilterMode :=
  match data.toNat with
  | 0 => .lowPass | 1 => .bandPass | _ => .highPass

/-- `clamp(0, 3, zext_32(DATA))` as a voice mode (49_voice_allocator R377). -/
def voiceModeOperand (data : DataField) : VoiceMode :=
  match data.toNat with
  | 0 => .paraphonic | 1 => .monoHighest | 2 => .monoLowest | _ => .monoLast

/-- `clamp(0, 5, zext_32(DATA))` as a play mode (47_sequencer R304). -/
def playModeOperand (data : DataField) : PlayMode :=
  match data.toNat with
  | 0 => .forward | 1 => .reverse | 2 => .pendulum | 3 => .randomInterval | 4 => .drunk | _ => .random

/-- `clamp(0, 4, zext_32(DATA))` as a bank mode (47_sequencer R305). -/
def bankModeOperand (data : DataField) : BankMode :=
  match data.toNat with
  | 0 => .none | 1 => .loop2 | 2 => .loop4 | 3 => .loop8 | _ => .random

/-- `clamp(0, 1, zext_32(DATA))` as an arpeggio direction (48_arpeggiator R342). -/
def arpDirOperand (data : DataField) : ArpDir :=
  match data.toNat with
  | 0 => .forward | _ => .backward

/-- `clamp(0, 4, zext_32(DATA))` as an arpeggio step mode (48_arpeggiator R343). -/
def arpStepModeOperand (data : DataField) : ArpStepMode :=
  match data.toNat with
  | 0 => .step1 | 1 => .step2 | 2 => .step3 | 3 => .random | _ => .twoForwardOneBack

/-- `clamp(0, 1, zext_32(DATA))` as an arpeggio note source (48_arpeggiator R346). -/
def arpSourceOperand (data : DataField) : ArpSource :=
  match data.toNat with
  | 0 => .frontPanel | _ => .midi

/-- SEL as a shaper type below N_SHAPER_TYPE; `none` where it names nothing (45_waveshaper_gain R258). -/
def shaperTypeOperand (p : Params) (sel : SelField) : Option Nat :=
  if sel.toNat < p.nShaperType then some sel.toNat else none

end Sys2Proof.Machine
end

