-- ==== Sys2Proof/Machine/Flags.lean ====
section
/-! DEFINITION. The STATUS word (10_state R52, 60_exceptions R411): two sticky bits that are state and four live bits
that are functions of the state. The block has no condition codes (10_state R53). -/

namespace Sys2Proof.Machine

/-- Bit 2, RECEIVING_CLOCK: a copy of `receivingClock`. -/
def liveReceivingClock (s : State) : Bool := s.clock.receivingClock

/-- Bit 3, TRIG_PENDING: a copy of `env.trigPending`. -/
def liveTrigPending (s : State) : Bool := s.env.trigPending

/-- Bit 4, LOAD_MUTED: `loadMute` is true and `loadRamp` = 0. -/
def liveLoadMuted (s : State) : Bool := s.mixer.loadMute && decide (s.mixer.loadRamp = 0)

/-- Bit 5, ENV_ACTIVE: `env.stage` is not Idle. -/
def liveEnvActive (s : State) : Bool := decide (s.env.stage ≠ .idle)

/-- The STATUS word driven on the port STATUS; bits 7:6 read as 0 (10_state R52). -/
def statusWord (s : State) : BitVec 8 :=
  0#2 ++ BitVec.ofBool (liveEnvActive s) ++ BitVec.ofBool (liveLoadMuted s) ++ BitVec.ofBool (liveTrigPending s) ++
    BitVec.ofBool (liveReceivingClock s) ++ BitVec.ofBool s.status.illegalCmd ++ BitVec.ofBool s.status.storageFail

/-- The sticky bits of STATUS. -/
inductive StickyBit where
  | storageFail | illegalCmd
  deriving DecidableEq, Repr

/-- `flag STATUS.X`: set a sticky bit (00_scope R14, 60_exceptions R411). -/
def setSticky (b : StickyBit) (s : State) : State :=
  match b with
  | .storageFail => s.withStatus { s.status with storageFail := true }
  | .illegalCmd => s.withStatus { s.status with illegalCmd := true }

/-- Clear the sticky bits a mask selects: bit 0 STORAGE_FAIL, bit 1 ILLEGAL_CMD (60_exceptions R412). -/
def clearSticky (mask : DataField) (s : State) : State :=
  s.withStatus
    { storageFail := s.status.storageFail && !mask.getLsbD 0
      illegalCmd := s.status.illegalCmd && !mask.getLsbD 1 }

end Sys2Proof.Machine
end

