-- ==== Sys2Proof/Machine/Ops.lean ====
section
/-! DEFINITION. The named operations over memory and registers that several sub-blocks share: the random draw (00_scope
R14), the table memories (20_memory R70 to R80), the reads and writes of oscillators, voices and engines, and the one
form an error takes (60_exceptions R420: there is no trap entry and no return; an error sets a sticky STATUS bit). -/

namespace Sys2Proof.Machine

/-! ## Errors (60_exceptions R410, R420, R421)

The block's only "exception entry": no register saves anything, no mode changes, control goes nowhere. The kind that
carries a sticky bit sets it, and the operation is complete. There is no return operation (R421). -/

/-- An undefined operation code, kind (f): ILLEGAL_CMD is set and nothing else changes (30_encoding R109). -/
def takeIllegalCommand (s : State) : State := setSticky .illegalCmd s

/-- Storage unavailable, kind (a): STORAGE_FAIL is set and nothing else changes (60_exceptions R414). -/
def takeStorageError (s : State) : State := setSticky .storageFail s

/-! ## Time (00_scope R13) -/

/-- Microseconds elapsed since time stamp `t0` at the start of this operation. -/
def State.since (s : State) (t0 : Time) : Nat := elapsed s.inputs.now t0

/-! ## Random draws (00_scope R14, R170; log 5) -/

/-- The word RND supplies next: the first word listed, or the free value where none is listed. -/
def Inputs.rndWord (x : Inputs) : Sample :=
  match x.rnd with
  | w :: _ => w
  | [] => Config.rnd x.drawCount

/-- The inputs after one word was taken from RND. -/
def Inputs.afterDraw (x : Inputs) : Inputs := { x with rnd := x.rnd.tail, drawCount := x.drawCount + 1 }

/-- A random word as a value in lo..hi: itself where it is one, else reduced into the range. -/
def drawValue (lo hi : Int) (w : Sample) : Int :=
  if lo ≤ (w.toNat : Int) ∧ (w.toNat : Int) ≤ hi then (w.toNat : Int) else lo + (w.toNat : Int) % (hi - lo + 1)

/-- `draw(lo, hi)`: a value in lo..hi that no rule fixes (00_scope R14), and the state after it was taken. -/
def draw (lo hi : Int) (s : State) : Int × State :=
  (drawValue lo hi s.inputs.rndWord, s.withInputs s.inputs.afterDraw)

/-! ## Registers -/

/-- The engine of oscillator o (00_scope R16). -/
def engineOf (o : Fin 8) : Fin 2 := ⟨o.val / 4, by omega⟩

/-- The voice of oscillator o (00_scope R16). -/
def voiceOf (o : Fin 8) : Fin 4 := ⟨o.val % 4, by omega⟩

/-- Oscillator 4 × e + v (00_scope R16). -/
def oscOf (e : Fin 2) (v : Fin 4) : Fin 8 := ⟨4 * e.val + v.val, by omega⟩

/-- Replace voice v's record. -/
def State.setVoice (s : State) (v : Fin 4) (x : Voice) : State := s.withVoices (s.voices.set v x)

/-- Replace oscillator o's record. -/
def State.setOsc (s : State) (o : Fin 8) (x : Osc) : State := s.withOsc (s.osc.set o x)

/-- Replace engine e's configuration. -/
def State.setEngine (s : State) (e : Fin 2) (x : Engine) : State := s.withEngines (s.engines.set e x)

/-- Apply `f` to every voice record. -/
def State.mapVoices (s : State) (f : Voice → Voice) : State := s.withVoices (s.voices.map f)

/-- Run `f` for the voices 0, 1, 2, 3 in this order: the loop `for v in 0..3`. -/
def forVoices (f : Fin 4 → State → State) (s : State) : State := f 3 (f 2 (f 1 (f 0 s)))

/-- The number of a modulation slot (10_state R36). -/
def ModSlot.index : ModSlot → Fin 17
  | .envPitch1 => 0 | .envPitch2 => 1 | .envCut => 2 | .envRate => 3
  | .lfoPitch1 => 4 | .lfoPitch2 => 5 | .lfoCut => 6 | .lfoAmp => 7 | .lfoPw => 8 | .lfoOct1 => 9 | .lfoOct2 => 10
  | .velPitch1 => 11 | .velPitch2 => 12 | .velCut => 13 | .velAmp => 14 | .velPw => 15 | .velRate => 16

/-- `mod[slot]` (10_state R36). -/
def State.depth (s : State) (slot : ModSlot) : Int := s.matrix[slot.index]

/-! ## Table memories (20_memory R70) -/

/-- The word listed at index `a`, if any. -/
def Table.find (t : Table) (a : Nat) : Option Sample :=
  match t with
  | [] => none
  | (b, x) :: rest => if b = a then some x else if a < b then none else Table.find rest a

/-- The word at index `a` of a table whose unlisted indices read as `dflt`. -/
def Table.read (dflt : Nat → Sample) (t : Table) (a : Nat) : Sample := (Table.find t a).getD (dflt a)

/-- Take index `a` out of the list. -/
def Table.erase (t : Table) (a : Nat) : Table :=
  match t with
  | [] => []
  | (b, x) :: rest => if b = a then rest else if a < b then (b, x) :: rest else (b, x) :: Table.erase rest a

/-- List the word `x` at index `a`, keeping the indices rising. -/
def Table.insert (t : Table) (a : Nat) (x : Sample) : Table :=
  match t with
  | [] => [(a, x)]
  | (b, y) :: rest =>
    if b = a then (a, x) :: rest else if a < b then (a, x) :: (b, y) :: rest else (b, y) :: Table.insert rest a x

/-- Write word `x` at index `a`. Writing what an unlisted index reads as takes the index out of the list, so that equal
contents are equal lists. -/
def Table.write (dflt : Nat → Sample) (t : Table) (a : Nat) (x : Sample) : Table :=
  if x = dflt a then Table.erase t a else Table.insert t a x

/-- The table of `n` words whose word at index x is `f x`: what writing all n words in turn leaves (20_memory R84). -/
def Table.build (dflt f : Nat → Sample) (n : Nat) : Table :=
  (List.range n).filterMap fun x => if f x = dflt x then none else some (x, f x)

/-- The canonical form: indices below `n`, strictly rising, no word equal to what its index reads as unlisted. -/
def Table.wf (dflt : Nat → Sample) (n : Nat) (t : Table) : Bool :=
  t.all (fun c => decide (c.1 < n) && decide (c.2 ≠ dflt c.1)) && decide (t.Pairwise (fun c d => c.1 < d.1))

/-- The table memories that are addressed by an index and hold 12-bit words (20_memory R70). -/
inductive Space where
  | user (u : Fin 3)
  | vol (e : Fin 2)
  | shaper
  | gain
  deriving DecidableEq, Repr

/-- How many words a table memory has (20_memory R70). -/
def Space.size : Space → Nat
  | .user _ => Config.tableLen
  | .vol _ => Config.lookupLen
  | .shaper => Config.lookupLen
  | .gain => Config.lookupLen

/-- The word VOL[e] holds at x for a volume (20_memory R80). -/
def volEntry (volume : Int) (x : Nat) : Sample := BitVec.ofInt 12 (cmul (x : Int) volume)

/-- What an unlisted index of a table memory reads as: its reset contents (20_memory R76, R77, R78, R80). -/
def Space.unlisted : Space → Nat → Sample
  | .user _ => fun _ => 2048#12
  | .vol _ => volEntry 1023
  | .shaper => fun x => BitVec.ofNat 12 x
  | .gain => fun x => BitVec.ofNat 12 x

/-- The list that holds a table memory. -/
def Memory.table (m : Memory) : Space → Table
  | .user u => m.user[u]
  | .vol e => m.vol[e]
  | .shaper => m.shaper
  | .gain => m.gain

/-- Replace the list that holds a table memory. -/
def Memory.setTable (m : Memory) (T : Space) (t : Table) : Memory :=
  match T with
  | .user u => { m with user := m.user.set u t }
  | .vol e => { m with vol := m.vol.set e t }
  | .shaper => { m with shaper := t }
  | .gain => { m with gain := t }

/-- The word at index `a` of table memory T. -/
def Memory.read (m : Memory) (T : Space) (a : Nat) : Sample := Table.read T.unlisted (m.table T) a

/-- `MemWrite(T, a, x)` (00_scope R14). -/
def Memory.write (m : Memory) (T : Space) (a : Nat) (x : Sample) : Memory :=
  m.setTable T (Table.write T.unlisted (m.table T) a x)

/-- Rebuild table memory T whole: `for x in 0..size-1: MemWrite(T, x, f x)` (20_memory R84). -/
def Memory.fill (m : Memory) (T : Space) (f : Nat → Sample) : Memory :=
  m.setTable T (Table.build T.unlisted f T.size)

/-- Replace Sequence record q. -/
def Memory.setSeq (m : Memory) (q : Fin 8) (x : Sequence) : Memory := { m with seq := m.seq.set q x }

/-- Every table memory is in its canonical form (log 9). -/
def Memory.wf (m : Memory) : Bool :=
  [Space.user 0, .user 1, .user 2, .vol 0, .vol 1, .shaper, .gain].all
    fun T => Table.wf T.unlisted T.size (m.table T)

/-- `MemRead(T, a)` as the operations use it: the word as a number, or nothing where T has no word `a` (20_memory R83;
log 11). -/
def memRead (T : Space) (a : Int) (s : State) : Option Int :=
  if 0 ≤ a ∧ a < (T.size : Int) then some ((s.mem.read T a.toNat).toNat : Int) else none

/-! ## Answers -/

/-- The answer of an operation that cannot fail. -/
def done (s : State) : Result := .next s

/-- The answer of an operation that reads tables by an index of its own: a fault where the table has no such word
(log 11). -/
def orTableFault : Option State → Result
  | some s => .next s
  | none => .fault .tableIndex

end Sys2Proof.Machine
end

