-- ==== Sys2Proof/Machine/Tempo.lean ====
section
/-! DEFINITION. Tempo, division, swing and the external-clock bookkeeping that the ClockEngine, the SequencerEngine and
the Arpeggiator share (spec 46_clock R271 to R273, R284 to R286; 47_sequencer R318). -/

namespace Sys2Proof.Machine

/-- The tick period of a tempo, `60000000 fdiv (bpm * 96)` (46_clock R271). -/
def periodOf (bpm : Nat) : Nat := 60000000 / (bpm * Config.ppq)

/-- `bpm <- b ; call SetPeriod()` (46_clock R271). -/
def setTempo (b : Nat) (s : State) : State := s.withClock { s.clock with bpm := b, periodUs := periodOf b }

/-- DIV_TABLE (46_clock R273). -/
def divTable (p : Params) (sel : Nat) : Nat :=
  match sel with
  | 0 => p.divTable[0]
  | 1 => p.divTable[1]
  | 2 => p.divTable[2]
  | _ => p.divTable[3]

/-- The length of the clock's counting period, the "measure": 2 × div pulses (46_clock R274). -/
def measure (s : State) : Nat := 2 * s.clock.div

/-- The sequence that sounds, `SEQ[curSeq]`. -/
def currentSeq (s : State) : Sequence := s.mem.seq[s.seq.cur]

/-- `RecomputeSwing()` (47_sequencer R318). -/
def recomputeSwing (s : State) : State :=
  s.withClock { s.clock with swingOffset := ((currentSeq s).swing * (s.clock.div / 2)) / s.params.swingMax }

/-- `SetDiv(sel)` (46_clock R272). -/
def setDiv (sel : Nat) (s : State) : State :=
  let d := divTable s.params sel
  let s := s.withClock { s.clock with div := d, pulse := s.clock.pulse % (2 * d) }
  let s := s.withSeq { s.seq with pendRel := s.seq.pendRel.map (· % (2 * d)) }
  let s := s.withArp { s.arp with pendRel := s.arp.pendRel.map (· % (2 * d)) }
  recomputeSwing s

/-- `ExtLost()` (46_clock R286). -/
def extLost (s : State) : State :=
  (s.withClock { s.clock with receivingClock := false }).withExt
    { s.ext with extSeen := false, extPulse := 0, bpmBufCount := 0, bpmBufIdx := 0 }

/-- The loss test: an external clock is followed and 300 ms have passed without a message (46_clock R286). -/
def extTimedOut (s : State) : Bool :=
  s.clock.receivingClock && decide (Config.extTimeoutUs ≤ s.since s.ext.lastExtTime)

/-- The instantaneous tempo of an interval between two clock messages (46_clock R284). -/
def instBpm (iv : Nat) : Nat := clampNat 0 65535 (60000000 / (iv * Config.midiClocksPerQuarter))

/-- The sum of the first `n` entries of the estimate buffer (46_clock R284). -/
def bufSum (buf : Vector Nat 24) (n : Nat) : Nat := (buf.toList.take n).sum

/-- The mean of the estimates, published with the preserved +1 once there are five of them (46_clock R284, R285). -/
def publishBpm (s : State) : State :=
  if Config.bpmMinSamples ≤ s.ext.bpmBufCount then
    let mean := bufSum s.ext.bpmBuf s.ext.bpmBufCount / s.ext.bpmBufCount
    setTempo (clampNat Config.bpmMin Config.bpmMax (mean + Config.bpmCorr)) s
  else s

/-- The external-sync state with one more estimate in its rolling buffer (46_clock R284). -/
def pushEstimate (x : ExtSync) (inst : Nat) : ExtSync :=
  { x with
    bpmBuf := x.bpmBuf.set x.bpmBufIdx inst
    bpmBufIdx := x.bpmBufIdx + 1
    bpmBufCount := min Config.bpmBufLen (x.bpmBufCount + 1) }

/-- `BpmEstimate(iv)` (46_clock R284). -/
def bpmEstimate (iv : Nat) (s : State) : State :=
  if iv = 0 then s else publishBpm (s.withExt (pushEstimate s.ext (instBpm iv)))

end Sys2Proof.Machine
end

