-- ==== Sys2Proof/Machine/MultimodeFilter.lean ====
section
/-! DEFINITION. The Filter (spec 44_filter): the state-variable step, its coefficients, and the operations SET_CUTOFF,
SET_RESONANCE, SET_FILTER_MODE and SET_FILTER_BYPASS. -/

namespace Sys2Proof.Machine

/-! ## The filter step -/

/-- A coefficient times a value, `(c * v) asr FX_SHIFT` (R242). -/
def fxMul (p : Params) (c v : Int) : Int := asr (c * v) p.fxShift

/-- The filter's input: the distance from the centre, halved in low-pass mode (R243). -/
def filterInput (f : Filter) (x : Int) : Int :=
  match f.mode with
  | .lowPass => asr (x - Config.centre) 1
  | .bandPass => x - Config.centre
  | .highPass => x - Config.centre

/-- The high-pass tap, from register 0 as it was (R243). -/
def highPassTap (f : Filter) (x : Int) : Int := filterInput f x - f.lp0

/-- The band-pass tap, from the registers as they were (R243). -/
def bandPassTap (f : Filter) : Int := f.lp0 - f.lp1

/-- Register 0 after the step (R243). -/
def nextLp0 (p : Params) (f : Filter) (x : Int) : Int :=
  wrap32 (f.lp0 + fxMul p f.cutEff (highPassTap f x + fxMul p f.fb (bandPassTap f)))

/-- Register 1 after the step: it follows the new register 0 (R243). -/
def nextLp1 (p : Params) (f : Filter) (x : Int) : Int :=
  wrap32 (f.lp1 + fxMul p f.cutEff (nextLp0 p f x - f.lp1))

/-- The value the mode selects (R243, R244). -/
def filterTap (p : Params) (f : Filter) (x : Int) : Int :=
  match f.mode with
  | .lowPass => nextLp1 p f x
  | .bandPass => bandPassTap f
  | .highPass => highPassTap f x

/-- `Filter(x)` (R243): the output, which the caller clips, and the state with the registers moved. Bypass leaves them
alone (R245). -/
def filterStep (x : Int) (s : State) : Int × State :=
  if s.filter.bypass then (x, s)
  else
    (filterTap s.params s.filter x + Config.centre,
      s.withFilter { s.filter with lp0 := nextLp0 s.params s.filter x, lp1 := nextLp1 s.params s.filter x })

/-! ## Coefficients -/

/-- The feedback coefficient of a resonance and a cutoff in use (R246). -/
def feedback (p : Params) (resonance cutEff : Int) : Int :=
  resonance + asr (resonance * (p.fxUnity - cutEff / Config.cutFbDiv)) p.fxShift

/-- The cutoff in use: the base value and the three modulation offsets, clamped (R247). -/
def effectiveCutoff (s : State) : Int :=
  clamp 0 s.params.coefMax (s.filter.cutoff + s.envMod.cut + s.vel.cut + s.lfoMod.cut)

/-- `UpdateFilterCoef()` (R247). -/
def updateFilterCoef (s : State) : State :=
  s.withFilter
    { s.filter with cutEff := effectiveCutoff s, fb := feedback s.params s.filter.resonance (effectiveCutoff s) }

/-! ## Operations -/

/-- SET_CUTOFF (R248). -/
def execSetCutoff (data : DataField) (s : State) : Result :=
  done (updateFilterCoef (s.withFilter { s.filter with cutoff := uOperand 0 s.params.coefMax data }))

/-- SET_RESONANCE (R249). -/
def execSetResonance (data : DataField) (s : State) : Result :=
  done (updateFilterCoef (s.withFilter { s.filter with resonance := uOperand 0 s.params.coefMax data }))

/-- SET_FILTER_MODE (R250). -/
def execSetFilterMode (data : DataField) (s : State) : Result :=
  done (s.withFilter { s.filter with mode := filterModeOperand data })

/-- SET_FILTER_BYPASS (R251). -/
def execSetFilterBypass (data : DataField) (s : State) : Result :=
  done (s.withFilter { s.filter with bypass := flagOperand data })

end Sys2Proof.Machine
end

