-- ==== Sys2Proof/Machine/Wavetables.lean ====
section
/-! DEFINITION. The wavetables (spec 20_memory R71 to R76): the built-in sine, triangle and saw, which no operation can
change, and WTRead, the one way a wavetable is read. -/

namespace Sys2Proof.Machine

/-! ## The built-in sine, WT[0] (20_memory R74) -/

/-- Entries 0 to 99 of the sine. -/
def sinePart0 : List Int :=
  [2048, 2069, 2091, 2112, 2134, 2155, 2177, 2198, 2219, 2241, 2262, 2283, 2305, 2326, 2347, 2368, 2389, 2410, 2432, 2453,
   2474, 2495, 2515, 2536, 2557, 2578, 2598, 2619, 2640, 2660, 2681, 2701, 2721, 2741, 2762, 2782, 2802, 2821, 2841, 2861,
   2881, 2900, 2920, 2939, 2958, 2977, 2996, 3015, 3034, 3053, 3072, 3090, 3108, 3127, 3145, 3163, 3181, 3199, 3216, 3234,
   3251, 3268, 3286, 3303, 3319, 3336, 3353, 3369, 3386, 3402, 3418, 3434, 3449, 3465, 3480, 3495, 3511, 3525, 3540, 3555,
   3569, 3583, 3598, 3611, 3625, 3639, 3652, 3665, 3678, 3691, 3704, 3717, 3729, 3741, 3753, 3765, 3776, 3788, 3799, 3810]

/-- Entries 100 to 199 of the sine. -/
def sinePart1 : List Int :=
  [3821, 3831, 3842, 3852, 3862, 3872, 3882, 3891, 3900, 3909, 3918, 3927, 3935, 3943, 3951, 3959, 3967, 3974, 3981, 3988,
   3995, 4001, 4008, 4014, 4020, 4025, 4031, 4036, 4041, 4046, 4050, 4055, 4059, 4063, 4066, 4070, 4073, 4076, 4079, 4081,
   4084, 4086, 4088, 4090, 4091, 4092, 4093, 4094, 4095, 4095, 4095, 4095, 4095, 4094, 4093, 4092, 4091, 4090, 4088, 4086,
   4084, 4081, 4079, 4076, 4073, 4070, 4066, 4063, 4059, 4055, 4050, 4046, 4041, 4036, 4031, 4025, 4020, 4014, 4008, 4001,
   3995, 3988, 3981, 3974, 3967, 3959, 3951, 3943, 3935, 3927, 3918, 3909, 3900, 3891, 3882, 3872, 3862, 3852, 3842, 3831]

/-- Entries 200 to 299 of the sine. -/
def sinePart2 : List Int :=
  [3821, 3810, 3799, 3788, 3776, 3765, 3753, 3741, 3729, 3717, 3704, 3691, 3678, 3665, 3652, 3639, 3625, 3611, 3598, 3583,
   3569, 3555, 3540, 3525, 3511, 3495, 3480, 3465, 3449, 3434, 3418, 3402, 3386, 3369, 3353, 3336, 3319, 3303, 3286, 3268,
   3251, 3234, 3216, 3199, 3181, 3163, 3145, 3127, 3108, 3090, 3072, 3053, 3034, 3015, 2996, 2977, 2958, 2939, 2920, 2900,
   2881, 2861, 2841, 2821, 2802, 2782, 2762, 2741, 2721, 2701, 2681, 2660, 2640, 2619, 2598, 2578, 2557, 2536, 2515, 2495,
   2474, 2453, 2432, 2410, 2389, 2368, 2347, 2326, 2305, 2283, 2262, 2241, 2219, 2198, 2177, 2155, 2134, 2112, 2091, 2069]

/-- Entries 300 to 399 of the sine. -/
def sinePart3 : List Int :=
  [2048, 2027, 2005, 1984, 1962, 1941, 1919, 1898, 1877, 1855, 1834, 1813, 1791, 1770, 1749, 1728, 1707, 1686, 1664, 1643,
   1622, 1601, 1581, 1560, 1539, 1518, 1498, 1477, 1456, 1436, 1415, 1395, 1375, 1355, 1334, 1314, 1294, 1275, 1255, 1235,
   1215, 1196, 1176, 1157, 1138, 1119, 1100, 1081, 1062, 1043, 1025, 1006, 988, 969, 951, 933, 915, 897, 880, 862,
   845, 828, 810, 793, 777, 760, 743, 727, 710, 694, 678, 662, 647, 631, 616, 601, 585, 571, 556, 541,
   527, 513, 498, 485, 471, 457, 444, 431, 418, 405, 392, 379, 367, 355, 343, 331, 320, 308, 297, 286]

/-- Entries 400 to 499 of the sine. -/
def sinePart4 : List Int :=
  [275, 265, 254, 244, 234, 224, 214, 205, 196, 187, 178, 169, 161, 153, 145, 137, 129, 122, 115, 108,
   101, 95, 88, 82, 76, 71, 65, 60, 55, 50, 46, 41, 37, 33, 30, 26, 23, 20, 17, 15,
   12, 10, 8, 6, 5, 4, 3, 2, 1, 1, 1, 1, 1, 2, 3, 4, 5, 6, 8, 10,
   12, 15, 17, 20, 23, 26, 30, 33, 37, 41, 46, 50, 55, 60, 65, 71, 76, 82, 88, 95,
   101, 108, 115, 122, 129, 137, 145, 153, 161, 169, 178, 187, 196, 205, 214, 224, 234, 244, 254, 265]

/-- Entries 500 to 599 of the sine. -/
def sinePart5 : List Int :=
  [275, 286, 297, 308, 320, 331, 343, 355, 367, 379, 392, 405, 418, 431, 444, 457, 471, 485, 498, 513,
   527, 541, 556, 571, 585, 601, 616, 631, 647, 662, 678, 694, 710, 727, 743, 760, 777, 793, 810, 828,
   845, 862, 880, 897, 915, 933, 951, 969, 988, 1006, 1025, 1043, 1062, 1081, 1100, 1119, 1138, 1157, 1176, 1196,
   1215, 1235, 1255, 1275, 1294, 1314, 1334, 1355, 1375, 1395, 1415, 1436, 1456, 1477, 1498, 1518, 1539, 1560, 1581, 1601,
   1622, 1643, 1664, 1686, 1707, 1728, 1749, 1770, 1791, 1813, 1834, 1855, 1877, 1898, 1919, 1941, 1962, 1984, 2005, 2027]

/-- WT[0], 600 entries (20_memory R74). -/
def sineTable : List Int := sinePart0 ++ sinePart1 ++ sinePart2 ++ sinePart3 ++ sinePart4 ++ sinePart5

/-! ## The built-in triangle and saw (20_memory R73) -/

/-- WT[1][i]. -/
def triangleEntry (i : Int) : Int := if i ≤ 300 then (i * 4095) / 300 else ((600 - i) * 4095) / 300

/-- WT[2][i]. -/
def sawEntry (i : Int) : Int := (i * 4096) / 600

/-- `f i` for an index of a wavetable; nothing outside 0..599. -/
def builtIn (f : Int → Int) (i : Int) : Option Int :=
  if 0 ≤ i ∧ i < (Config.tableLen : Int) then some (f i) else none

/-! ## Reading -/

/-- The square wave (20_memory R75): high below `pwEdge`, low from it on. -/
def squareEntry (edge i : Int) : Int := if i < edge then Config.sampleMax else 0

/-- `WTRead(w, i)` (20_memory R72): the sample and the state after it was read, or nothing where a stored table has no
entry `i` (log 11). Only the noise arm changes the state: it takes a random draw. -/
def wtRead (w : Wave) (i : Int) (s : State) : Option (Int × State) :=
  match w with
  | .sine => (builtIn (fun j => sineTable.getD j.toNat 0) i).map fun x => (x, s)
  | .triangle => (builtIn triangleEntry i).map fun x => (x, s)
  | .saw => (builtIn sawEntry i).map fun x => (x, s)
  | .square => some (squareEntry s.pw.edge i, s)
  | .user1 => (memRead (.user 0) i s).map fun x => (x, s)
  | .user2 => (memRead (.user 1) i s).map fun x => (x, s)
  | .user3 => (memRead (.user 2) i s).map fun x => (x, s)
  | .noise => some (draw 0 Config.sampleMax s)

end Sys2Proof.Machine
end

