-- ==== Sys2Proof/Machine/Oscillator.lean ====
section
/-! DEFINITION. The OscillatorBank (spec 40_oscillator_bank): the phase accumulators, the sample lookup, the phase
increments, the pulse width, and the operations SET_WAVE, SET_OCTAVE, SET_VOLUME, SET_DETUNE, SET_PW and
WRITE_WAVETABLE. -/

namespace Sys2Proof.Machine

/-! ## The accumulators -/

/-- One accumulator's advance: CYCLE is subtracted at most once (R123). -/
def advancePhase (cycle : Int) (x : Osc) : Osc :=
  { x with phase := if cycle ≤ x.phase + x.inc then x.phase + x.inc - cycle else x.phase + x.inc }

/-- `PhaseAdvance()` (R123). -/
def phaseAdvance (s : State) : State := s.withOsc (s.osc.map (advancePhase s.params.cycle))

/-- The table index of a phase, `p asr FRAC_BITS` (R121). -/
def phaseIndex (p : Params) (phase : Int) : Int := phase / p.fracUnit

/-- `OscSample(o)` (R124), for an engine whose wave is not noise. -/
def oscSample (o : Fin 8) (s : State) : Option Int :=
  if s.voices[voiceOf o].sounding then
    (wtRead s.engines[engineOf o].wave (phaseIndex s.params s.osc[o].phase) s).map (·.1)
  else some Config.centre

/-- `EngineRaw(e)`, the average of the four oscillators of an engine (R125). -/
def engineRaw (e : Fin 2) (s : State) : Option Int := do
  let a ← oscSample (oscOf e 0) s
  let b ← oscSample (oscOf e 1) s
  let c ← oscSample (oscOf e 2) s
  let d ← oscSample (oscOf e 3) s
  return asr (a + b + c + d) 2

/-! ## The increments -/

/-- `EffOct(e)` (R127, R132). -/
def effOct (e : Fin 2) (s : State) : Int :=
  clamp s.params.octMin s.params.octMax (s.engines[e].octave + s.lfoMod.oct[e])

/-- The pitch offset of an engine in increment units (R127). -/
def pitchOffset (e : Fin 2) (s : State) : Int :=
  s.engines[e].detune + s.lfoMod.pitch[e] + s.envMod.pitch[e] + s.vel.pitch[e]

/-- The target increment of oscillator o for note n (R127). -/
def oscTarget (o : Fin 8) (n : Note) (s : State) : Int :=
  clamp 0 s.params.incMax
    (s.params.incOf (clamp 0 127 (s.params.noteRef + n + 12 * effOct (engineOf o) s)) + pitchOffset (engineOf o) s
      + s.alloc.unisonOff[voiceOf o])

/-- A voice's glide is under way: `gliding[v] and portaTime > 0 and el < portaTime` (R127). -/
def glideActive (x : Voice) (s : State) : Bool :=
  x.gliding && decide (0 < s.alloc.portaTime) && decide (s.since x.portaT0 < s.alloc.portaTime)

/-- What DeriveIncrements makes of oscillator o (R127). -/
def deriveOsc (s : State) (o : Fin 8) : Osc :=
  let x := s.osc[o]
  let y := s.voices[voiceOf o]
  match y.note with
  | none => x
  | some n =>
    let tgt := oscTarget o n s
    { x with
      inc := if glideActive y s && x.tgtValid then lerp x.portaFrom tgt (s.since y.portaT0) s.alloc.portaTime else tgt
      lastTgt := tgt
      tgtValid := true
      portaFrom := if x.tgtValid then x.portaFrom else tgt }

/-- A glide ends when its time is over or the glide time is zero (R127). -/
def endGlide (s : State) (x : Voice) : Voice := { x with gliding := glideActive x s }

/-- `DeriveIncrements()` (R127). -/
def deriveIncrements (s : State) : State :=
  (s.withOsc (Vector.ofFn (deriveOsc s))).withVoices (s.voices.map (endGlide s))

/-- `UpdatePulseWidth()` (R136). -/
def updatePulseWidth (s : State) : State :=
  let base := clamp 0 Config.gainMax (s.pw.knob + s.vel.pw)
  let eff := if s.params.lfoPwMinDepth < s.depth .lfoPw then clamp 0 Config.gainMax (base + s.lfoMod.pw) else base
  s.withPw { s.pw with eff := eff, edge := asr (eff * (Config.tableLen : Int)) 10 }

/-! ## Operations -/

/-- SET_WAVE (R130). -/
def execSetWave (sel : SelField) (data : DataField) (s : State) : Result :=
  match selOperand 2 sel with
  | some e => done (s.setEngine e { s.engines[e] with wave := waveOperand data })
  | none => done s

/-- SET_OCTAVE (R131). -/
def execSetOctave (sel : SelField) (data : DataField) (s : State) : Result :=
  match selOperand 2 sel with
  | some e =>
    done (deriveIncrements
      (s.setEngine e { s.engines[e] with octave := sOperand s.params.octMin s.params.octMax data }))
  | none => done s

/-- SET_VOLUME (R133): the engine's volume table is rebuilt whole. -/
def execSetVolume (sel : SelField) (data : DataField) (s : State) : Result :=
  match selOperand 2 sel with
  | some e =>
    let volume := uOperand 0 Config.gainMax data
    done ((s.setEngine e { s.engines[e] with volume := volume }).withMem (s.mem.fill (.vol e) (volEntry volume)))
  | none => done s

/-- SET_DETUNE (R134). -/
def execSetDetune (sel : SelField) (data : DataField) (s : State) : Result :=
  match selOperand 2 sel with
  | some e =>
    done (deriveIncrements
      (s.setEngine e { s.engines[e] with detune := sOperand (-s.params.detuneMax) s.params.detuneMax data }))
  | none => done s

/-- SET_PW (R135). -/
def execSetPw (data : DataField) (s : State) : Result :=
  done (updatePulseWidth (s.withPw { s.pw with knob := uOperand 0 Config.gainMax data }))

/-- WRITE_WAVETABLE (R137). -/
def execWriteWavetable (sel : SelField) (addr : AddrField) (data : DataField) (s : State) : Result :=
  match selOperand 3 sel with
  | some u =>
    if addr.toNat < Config.tableLen then done (s.withMem (s.mem.write (.user u) addr.toNat (sampleOperand data)))
    else done s
  | none => done s

end Sys2Proof.Machine
end

