-- ==== Sys2Proof/Machine/Envelope.lean ====
section
/-! DEFINITION. The EnvelopeGenerator (spec 42_envelope) with the velocity modulation its trigger queues
(49_voice_allocator R396), and the operations SET_ATTACK, SET_DECAY, SET_SUSTAIN, SET_RELEASE, ENV_TRIGGER, ENV_RELEASE
and ENV_TICK. -/

namespace Sys2Proof.Machine

/-! ## Modulation outputs -/

/-- `QueueVelocity()` (49_voice_allocator R396): the queued copy, from the velocity in `env.pendVel`. -/
def queueVelocity (s : State) : State :=
  let vel := s.env.pendVel
  s.withQVel
    { pitch := #v[vel * s.depth .velPitch1 * s.params.velPitchMul,
        vel * s.depth .velPitch2 * s.params.velPitchMul]
      cut := asr (vel * s.depth .velCut) s.params.velCutShift
      amp := Config.gainMax - ((Config.velMax - vel) * s.depth .velAmp) / Config.velMax
      pw := asr (vel * s.depth .velPw) s.params.velPwShift
      rate := ((s.lfo.rate - s.params.lfoTicksMin) * vel * s.depth .velRate) / (Config.velMax * Config.gainMax) }

/-- `EnvOutputs()` (R194). -/
def envOutputs (s : State) : State :=
  s.withEnvMod
    { pitch := #v[s.env.amp * s.depth .envPitch1, s.env.amp * s.depth .envPitch2]
      cut := asr (s.env.amp * s.depth .envCut) s.params.envCutShift
      rate := asr (s.env.amp * s.depth .envRate) s.params.envRateShift }

/-! ## Trigger -/

/-- A voice at the entry into Attack: silenced if marked, its mark cleared (R187). -/
def applyMute (x : Voice) : Voice := { x with sounding := x.sounding && !x.muteOnTrig, muteOnTrig := false }

/-- The LFO's restart at the entry into Attack, where `lfoRetrig` is set (R187, 43_lfo R235). -/
def retrigLfo (s : State) : State :=
  if s.lfo.retrig then s.withLfo { s.lfo with index := 0, counter := 0 } else s

/-- `EnterAttack()` (R187). -/
def enterAttack (s : State) : State :=
  let s := s.withEnv { s.env with trigPending := false, start := s.env.amp }
  let s := s.mapVoices applyMute
  let s := s.withVel s.qVel
  let s := retrigLfo s
  let s := s.withEnv { s.env with stage := .attack, t0 := s.inputs.now }
  deriveIncrements (updatePulseWidth (updateFilterCoef (envOutputs s)))

/-- `EnvTrigStep()` (R186): one step of the click-avoidance fade, or the entry into Attack. -/
def envTrigStep (s : State) : State :=
  if s.params.envClickThresh < s.env.amp then s.withEnv { s.env with amp := s.env.amp - s.params.envClickStep }
  else enterAttack s

/-- `EnvTrigger(vel)` (R185). -/
def envTriggerWith (vel : Int) (s : State) : State :=
  let s := queueVelocity (s.withEnv { s.env with pendVel := vel })
  envTrigStep (s.withEnv { s.env with trigPending := true })

/-! ## Release -/

/-- `EnvRelease()` (R192). -/
def envReleaseNow (s : State) : State :=
  let wasPending := s.env.trigPending
  let s := s.withEnv { s.env with trigPending := false }
  if s.env.stage ≠ .idle ∧ (s.env.stage ≠ .release ∨ wasPending = true) then
    s.withEnv { s.env with start := s.env.amp, t0 := s.inputs.now, stage := .release }
  else s

/-- A voice when the envelope completes: it holds nothing and is silent (R193). -/
def clearVoice (x : Voice) : Voice := { x with sounding := false, note := none, key := none, muteOnTrig := false }

/-- `EnvComplete()` (R193). -/
def envComplete (s : State) : State :=
  let s := s.withEnv { s.env with amp := 0, stage := .idle }
  let s := updateFilterCoef (envOutputs s)
  let s := s.mapVoices clearVoice
  s.withAlloc { s.alloc with held := [] }

/-! ## Evaluation -/

/-- The end of an ENV_TICK outside Idle (R188): outputs, filter coefficients, increments. -/
def envEvaluated (s : State) : State := deriveIncrements (updateFilterCoef (envOutputs s))

/-- A segment of the envelope is over: a duration of 0, or a duration that has elapsed (R188, R189). -/
def segmentOver (dur : Nat) (s : State) : Bool := decide (dur = 0) || decide (dur ≤ s.since s.env.t0)

/-- Enter a new stage at a level (R188). -/
def enterStage (stage : Stage) (level : Int) (s : State) : State :=
  s.withEnv { s.env with amp := level, stage := stage, start := level, t0 := s.inputs.now }

/-- A point of a running segment: the amplitude on the line from `a` to `b` (R190). -/
def rampTo (a b : Int) (dur : Nat) (s : State) : State :=
  s.withEnv { s.env with amp := lerp a b (s.since s.env.t0) dur }

/-- `EnvTick()` (R188). Decay runs from `env.start`, which is 1023 whenever Decay was entered by R188. -/
def envTickStep (s : State) : State :=
  if s.env.trigPending then envTrigStep s
  else
    match s.env.stage with
    | .idle => s
    | .attack =>
      envEvaluated
        (if segmentOver s.env.attack s then enterStage .decay Config.gainMax s
         else rampTo s.env.start Config.gainMax s.env.attack s)
    | .decay =>
      envEvaluated
        (if segmentOver s.env.decay s then enterStage .sustain s.env.sustain s
         else rampTo s.env.start s.env.sustain s.env.decay s)
    | .sustain => envEvaluated (s.withEnv { s.env with amp := s.env.sustain })
    | .release =>
      if segmentOver s.env.release s then envComplete s
      else envEvaluated (rampTo s.env.start 0 s.env.release s)

/-! ## Operations -/

/-- SET_ATTACK (R181). -/
def execSetAttack (data : DataField) (s : State) : Result :=
  done (s.withEnv { s.env with attack := durationOperand data })

/-- SET_DECAY (R182). -/
def execSetDecay (data : DataField) (s : State) : Result :=
  done (s.withEnv { s.env with decay := durationOperand data })

/-- SET_SUSTAIN (R183). -/
def execSetSustain (data : DataField) (s : State) : Result :=
  done (s.withEnv { s.env with sustain := uOperand 0 Config.gainMax data })

/-- SET_RELEASE (R184). -/
def execSetRelease (data : DataField) (s : State) : Result :=
  done (s.withEnv { s.env with release := durationOperand data })

/-- ENV_TRIGGER (R185). -/
def execEnvTrigger (data : DataField) (s : State) : Result := done (envTriggerWith (velOperand data) s)

/-- ENV_RELEASE (R192). -/
def execEnvRelease (s : State) : Result := done (envReleaseNow s)

/-- ENV_TICK (R188). -/
def execEnvTick (s : State) : Result := done (envTickStep s)

end Sys2Proof.Machine
end

