-- ==== Sys2Proof/Machine/Voices.lean ====
section
/-! DEFINITION. The voice records' shared operations and the operations that set the allocator's configuration (spec
49_voice_allocator R374, R377 to R381, R389, R392): SET_VOICE_MODE, SET_UNISON, SET_UNISON_SPREAD, SET_PORTAMENTO and
SET_VOICE. -/

namespace Sys2Proof.Machine

/-! ## Fields of a voice -/

/-- `key[v] <- x`. -/
def setKey (v : Fin 4) (x : Option Note) (s : State) : State := s.setVoice v { s.voices[v] with key := x }

/-- `muteOnTrig[v] <- true`. -/
def markMute (v : Fin 4) (s : State) : State := s.setVoice v { s.voices[v] with muteOnTrig := true }

/-- `sounding[v] <- false`. -/
def silence (v : Fin 4) (s : State) : State := s.setVoice v { s.voices[v] with sounding := false }

/-- The voice that owns key `k`, the lowest if several did. -/
def voiceOfKey (k : Note) (s : State) : Option (Fin 4) :=
  if s.voices[0].key = some k then some 0
  else if s.voices[1].key = some k then some 1
  else if s.voices[2].key = some k then some 2
  else if s.voices[3].key = some k then some 3
  else none

/-- The lowest voice slot that no key owns (R382). -/
def freeVoice (s : State) : Option (Fin 4) :=
  if s.voices[0].key = none then some 0
  else if s.voices[1].key = none then some 1
  else if s.voices[2].key = none then some 2
  else if s.voices[3].key = none then some 3
  else none

/-- Some key owns a voice slot. -/
def anyKey (s : State) : Bool :=
  s.voices[0].key.isSome || s.voices[1].key.isSome || s.voices[2].key.isSome || s.voices[3].key.isSome

/-! ## Giving a voice a note -/

/-- A glide starts at the target the oscillator had (R374). -/
def startGlide (x : Osc) : Osc := { x with portaFrom := x.lastTgt }

/-- `SetNote(v, x)` (R374). -/
def setNote (v : Fin 4) (x : Option Note) (s : State) : State :=
  match x with
  | some n =>
    let s := s.setOsc (oscOf 0 v) (startGlide s.osc[oscOf 0 v])
    let s := s.setOsc (oscOf 1 v) (startGlide s.osc[oscOf 1 v])
    deriveIncrements (s.setVoice v
      { s.voices[v] with
        note := some n, sounding := true, muteOnTrig := false, portaT0 := s.inputs.now, gliding := true })
  | none => deriveIncrements (s.setVoice v { s.voices[v] with note := none })

/-! ## Unison and release of the allocator -/

/-- The offset voice v carries (R392). -/
def unisonOffset (s : State) (v : Fin 4) : Int :=
  if s.alloc.voiceMode ≠ .paraphonic ∧ 1 ≤ v.val ∧ v.val ≤ s.alloc.unisonCount then
    (v.val : Int) * s.alloc.unisonSpread
  else 0

/-- `UpdateUnison()` (R392). -/
def updateUnison (s : State) : State := s.withAlloc { s.alloc with unisonOff := Vector.ofFn (unisonOffset s) }

/-- `AllocReleaseAll()` (R389). -/
def allocReleaseAll (s : State) : State :=
  let any := anyKey s || decide (s.alloc.held ≠ [])
  let s := s.mapVoices fun x => { x with key := none }
  let s := s.withAlloc { s.alloc with held := [] }
  if any then envReleaseNow s else s

/-! ## Operations -/

/-- SET_VOICE_MODE (R377). -/
def execSetVoiceMode (data : DataField) (s : State) : Result :=
  let m := voiceModeOperand data
  if m = s.alloc.voiceMode then done s
  else
    let s := allocReleaseAll s
    let s := s.withAlloc { s.alloc with voiceMode := m }
    done (deriveIncrements (updateUnison s))

/-- SET_UNISON (R378). -/
def execSetUnison (data : DataField) (s : State) : Result :=
  done (deriveIncrements (updateUnison (s.withAlloc { s.alloc with unisonCount := countOperand 0 3 data })))

/-- SET_UNISON_SPREAD (R379). -/
def execSetUnisonSpread (data : DataField) (s : State) : Result :=
  done (deriveIncrements (updateUnison
    (s.withAlloc { s.alloc with unisonSpread := uOperand 0 s.params.spreadMax data })))

/-- SET_PORTAMENTO (R380). -/
def execSetPortamento (data : DataField) (s : State) : Result :=
  done (deriveIncrements (s.withAlloc { s.alloc with portaTime := durationOperand data }))

/-- SET_VOICE (R381). -/
def execSetVoice (sel : SelField) (data : DataField) (s : State) : Result :=
  match selOperand 4 sel with
  | some v =>
    match optNoteOperand s.params data with
    | some n => done (setNote v (some n) s)
    | none => done (silence v (setNote v none s))
  | none => done s

end Sys2Proof.Machine
end

