-- ==== Sys2Proof/Machine/Sequencer.lean ====
section
/-! DEFINITION. The SequencerEngine (spec 47_sequencer): transport, playback, editing, and the operations SEQ_START,
SEQ_STOP, SEQ_SELECT, SET_PLAY_MODE, SET_BANK_MODE, SEQ_WRITE, SEQ_SET_PARAM, SEQ_COPY, SEQ_CLEAR and SEQ_EDIT. -/

namespace Sys2Proof.Machine

/-! ## Release -/

/-- `SeqRelease()` (R315). -/
def seqRelease (s : State) : State :=
  let s := envReleaseNow (s.withSeq { s.seq with pendRel := none })
  if s.outbox.seqNotes = Vector.replicate 4 none then s
  else s.withOutbox { s.outbox with seqOff := some s.outbox.seqNotes, seqNotes := Vector.replicate 4 none }

/-- `if seqPendRel != none then call SeqRelease()`. -/
def seqReleasePending (s : State) : State := if s.seq.pendRel.isSome then seqRelease s else s

/-! ## Transport -/

/-- `ApplySeqTempo()` (R301). -/
def applySeqTempo (s : State) : State :=
  let s := setDiv (currentSeq s).divSelection s
  if s.clock.receivingClock then s else setTempo (currentSeq s).bpm s

/-- `SeqStart()` (R301). -/
def startSeq (s : State) : State :=
  let s := s.withSeq { s.seq with running := true, step := 0, dir := 1, mag := 1 }
  applySeqTempo (s.withClock { s.clock with pulse := 0 })

/-- `SeqStop()` (R302). -/
def stopSeq (s : State) : State := seqReleasePending (s.withSeq { s.seq with running := false })

/-! ## Bank cueing -/

/-- The other member of a sequence's pair (R308). -/
def pairPartner (q : Fin 8) : Fin 8 := if q.val % 2 = 0 then Fin.ofNat 8 (q.val + 1) else Fin.ofNat 8 (q.val - 1)

/-- The next sequence of a sequence's cycle of four (R308). -/
def cycleOf4 (q : Fin 8) : Fin 8 := Fin.ofNat 8 (4 * (q.val / 4) + (q.val + 1) % 4)

/-- One of the other seven sequences, from a draw r in 0..6 (R308). -/
def otherSeq (q : Fin 8) (r : Int) : Fin 8 :=
  Fin.ofNat 8 (if (q.val : Int) ≤ r then r + 1 else r).toNat

/-- `CueNextSeq()` (R308). -/
def cueNextSeq (s : State) : State :=
  match s.seq.bankMode with
  | .none => s
  | .loop2 => s.withSeq { s.seq with sel := pairPartner s.seq.cur }
  | .loop4 => s.withSeq { s.seq with sel := cycleOf4 s.seq.cur }
  | .loop8 => s.withSeq { s.seq with sel := Fin.ofNat 8 (s.seq.cur.val + 1) }
  | .random =>
    let (r, s) := draw 0 6 s
    s.withSeq { s.seq with sel := otherSeq s.seq.cur r }

/-- `SwitchIfCued()` (R307). -/
def switchIfCued (s : State) : State :=
  if s.seq.step = 0 ∧ s.seq.sel ≠ s.seq.cur then
    cueNextSeq (applySeqTempo (s.withSeq { s.seq with cur := s.seq.sel }))
  else s

/-! ## Playback -/

/-- Step `i` taken modulo the pattern length `len`; nothing where the length is not 1..16 (R309, 20_memory R79; log
11). -/
def stepIndex (len : Nat) (i : Int) : Option (Fin 16) :=
  if h : 0 < len ∧ len ≤ 16 then
    some ⟨(i % (len : Int)).toNat, by
      have := Int.emod_lt_of_pos i (b := (len : Int)) (by omega)
      have := Int.emod_nonneg i (b := (len : Int)) (by omega)
      omega⟩
  else none

/-- A random step magnitude for a pattern of `len` steps: `draw(1, max(1, L - 1))` (R310). -/
def drawMagnitude (len : Nat) (s : State) : State :=
  let (m, s) := draw 1 (max 1 ((len : Int) - 1)) s
  s.withSeq { s.seq with mag := m }

/-- `StepIncrement(t)` (R310): the increment and the state after it was computed. -/
def stepIncrement (len t : Nat) (s : State) : Int × State :=
  match s.seq.playMode with
  | .forward => (1, s)
  | .reverse => (-1, s)
  | .pendulum =>
    let d := if t = 0 then 1 else if (len : Int) - 1 ≤ t then -1 else s.seq.dir
    (d, s.withSeq { s.seq with dir := d })
  | .randomInterval =>
    let s := if t = 0 then drawMagnitude len s else s
    (s.seq.mag, s)
  | .drunk =>
    let (r, s) := draw 0 1 s
    let d := if r = 0 then -1 else 1
    (d, s.withSeq { s.seq with dir := d })
  | .random =>
    let s := drawMagnitude len s
    (s.seq.mag, s)

/-- SEQ_DUR_MAP before its clamp (R317): the identity, or the implementation's map. -/
def mappedDuration (p : Params) (dur div : Nat) : Nat :=
  match p.seqDurMap with
  | .identity => dur
  | .implementation => Config.durationMap dur div

/-- `SeqDur()`, in pulses (R317). -/
def seqDur (s : State) : Nat :=
  clampNat 1 (measure s - 1) (mappedDuration s.params (currentSeq s).noteDuration s.clock.div)

/-- Schedule the release of the sounding step (R311, R312). -/
def scheduleSeqRelease (s : State) : State :=
  s.withSeq { s.seq with pendRel := some ((s.clock.pulse + seqDur s) % measure s) }

/-- The note step `t` gives voice `v`: the stored note and the transpose, clamped (R311). -/
def stepNote (p : Params) (S : Sequence) (t : Fin 16) (v : Fin 4) : Option Note :=
  S.notes[v][t].map fun n => clampNote p (n + S.transpose)

/-- What StepPlay does to voice `v` (R311). -/
def playVoice (S : Sequence) (t : Fin 16) (v : Fin 4) (s : State) : State :=
  let x := stepNote s.params S t v
  let s := setNote v x s
  let s := if x.isSome then s else markMute v s
  s.withOutbox { s.outbox with seqNotes := s.outbox.seqNotes.set v x }

/-- `StepPlay(t, nxt)` (R311). -/
def stepPlay (t nxt : Fin 16) (s : State) : State :=
  let S := currentSeq s
  let s := forVoices (playVoice S t) s
  let s := if S.tie[nxt] then s.withSeq { s.seq with pendRel := none } else scheduleSeqRelease s
  if s.outbox.seqNotes = Vector.replicate 4 none then s
  else
    let s := envTriggerWith S.vel[t] s
    s.withOutbox { s.outbox with seqOn := some { notes := s.outbox.seqNotes, vel := S.vel[t] } }

/-- `StepTied(nxt)` (R312). -/
def stepTied (nxt : Fin 16) (s : State) : State :=
  if (currentSeq s).tie[nxt] then s else scheduleSeqRelease s

/-- `StepMuted()` (R313). -/
def stepMuted (s : State) : State :=
  s.withSeq { s.seq with pendRel := s.seq.pendRel.map fun p => (p + 1) % measure s }

/-- The middle of SeqNextStep: what the step `t` plays (R309). -/
def playStep (t nxt : Fin 16) (s : State) : State :=
  if (currentSeq s).mute[t] then stepMuted s
  else if (currentSeq s).tie[t] then stepTied nxt s
  else stepPlay t nxt s

/-- `SeqNextStep()` (R309, R314). -/
def seqNextStep (s : State) : Option State := do
  let s := switchIfCued s
  let len := (currentSeq s).patternLength
  let t ← stepIndex len s.seq.step
  let (incr, s) := stepIncrement len t.val s
  let nxt ← stepIndex len (t.val + incr)
  let s := playStep t nxt s
  return s.withSeq { s.seq with step := nxt.val }

/-- The two pulses of the measure on which a step is played (R306, 48_arpeggiator R350). -/
def stepPulse (s : State) : Bool :=
  decide (s.clock.pulse = 0) || decide (s.clock.pulse = s.clock.div + s.clock.swingOffset)

/-- The swing is recomputed at pulse 0 (R306, 48_arpeggiator R350). -/
def swingAtZero (s : State) : State := if s.clock.pulse = 0 then recomputeSwing s else s

/-- `SeqDispatch()` (R306). -/
def seqDispatch (s : State) : Option State :=
  let s := swingAtZero s
  let s := if s.seq.pendRel = some s.clock.pulse then seqRelease s else s
  if stepPulse s then seqNextStep s else some s

/-! ## Editing -/

/-- `seqStep` after sequence `q` changed: reduced where it is the current one (R331, R332, R333). -/
def reduceStep (q : Fin 8) (s : State) : State :=
  if q = s.seq.cur then s.withSeq { s.seq with step := s.seq.step % s.mem.seq[q].patternLength } else s

/-- A SEQ_WRITE's effect on the record it names; nothing where the field or sub-index names nothing (R330). -/
def writeField (p : Params) (S : Sequence) (field sub : BitVec 4) (t : Fin 16) (data : DataField) : Option Sequence :=
  match field.toNat with
  | 0 =>
    (subOperand 4 sub).map fun (u : Fin 4) =>
      { S with notes := S.notes.set u (S.notes[u].set t (optNoteOperand p data)) }
  | 1 => some { S with tie := S.tie.set t (flagOperand data) }
  | 2 => some { S with mute := S.mute.set t (flagOperand data) }
  | 3 => some { S with vel := S.vel.set t (velOperand data) }
  | 4 => (subOperand 4 sub).map fun (u : Fin 4) => { S with ccNum := S.ccNum.set u (countOperand 0 127 data) }
  | 5 =>
    (subOperand 4 sub).map fun (u : Fin 4) =>
      { S with ccVal := S.ccVal.set u (S.ccVal[u].set t (countOperand 0 127 data)) }
  | _ => none

/-- A SEQ_SET_PARAM's effect on the record it names; nothing where the parameter names nothing (R331). -/
def writeParam (p : Params) (S : Sequence) (k : Nat) (data : DataField) : Option Sequence :=
  match k with
  | 0 => some { S with noteDuration := countOperand 0 1023 data }
  | 1 => some { S with divSelection := countOperand 0 3 data }
  | 2 => some { S with patternLength := countOperand 1 16 data }
  | 3 => some { S with transpose := sOperand (-48) 48 data }
  | 4 => some { S with swing := countOperand 0 p.swingMax data }
  | 5 => some { S with bpm := countOperand Config.bpmMin Config.bpmMax data }
  | _ => none

/-- The note a capture writes for a voice: the note it sounds now, unless it is stale (R335). -/
def capturedNote (x : Voice) : Option Note := if x.sounding && !x.muteOnTrig then x.note else none

/-- `SeqCapture()` (R335). -/
def seqCapture (s : State) : State :=
  let S := s.mem.seq[s.seq.sel]
  s.withMem (s.mem.setSeq s.seq.sel
    { S with notes := Vector.ofFn fun v => S.notes[v].set s.seq.editStep (capturedNote s.voices[v]) })

/-! ## Operations -/

/-- SEQ_START (R301). -/
def execSeqStart (s : State) : Result := done (startSeq s)

/-- SEQ_STOP (R302). -/
def execSeqStop (s : State) : Result := done (stopSeq s)

/-- SEQ_SELECT (R303). -/
def execSeqSelect (sel : SelField) (s : State) : Result :=
  match selOperand 8 sel with
  | some q => done (s.withSeq { s.seq with sel := q })
  | none => done s

/-- SET_PLAY_MODE (R304). -/
def execSetPlayMode (data : DataField) (s : State) : Result :=
  done (s.withSeq { s.seq with playMode := playModeOperand data, dir := 1, mag := 1 })

/-- SET_BANK_MODE (R305). -/
def execSetBankMode (data : DataField) (s : State) : Result :=
  done (cueNextSeq (s.withSeq { s.seq with bankMode := bankModeOperand data }))

/-- SEQ_WRITE (R330). -/
def execSeqWrite (sel : SelField) (field sub step : BitVec 4) (data : DataField) (s : State) : Result :=
  match selOperand 8 sel with
  | some q =>
    match writeField s.params s.mem.seq[q] field sub (stepOperand step) data with
    | some S => done (s.withMem (s.mem.setSeq q S))
    | none => done s
  | none => done s

/-- SEQ_SET_PARAM (R331). Only the pattern length (parameter 2) moves `seqStep`. -/
def execSeqSetParam (sel : SelField) (addr : AddrField) (data : DataField) (s : State) : Result :=
  match selOperand 8 sel with
  | some q =>
    match writeParam s.params s.mem.seq[q] addr.toNat data with
    | some S =>
      let s := s.withMem (s.mem.setSeq q S)
      if addr.toNat = 2 then done (reduceStep q s) else done s
    | none => done s
  | none => done s

/-- SEQ_COPY (R332). -/
def execSeqCopy (sel : SelField) (addr : AddrField) (s : State) : Result :=
  match selOperand 8 sel, addrOperand 8 addr with
  | some a, some b =>
    let s := s.withSeq { s.seq with src := a, dst := b }
    done (reduceStep b (s.withMem (s.mem.setSeq b s.mem.seq[a])))
  | _, _ => done s

/-- SEQ_CLEAR (R333). -/
def execSeqClear (sel : SelField) (s : State) : Result :=
  match selOperand 8 sel with
  | some q => done (reduceStep q (s.withMem (s.mem.setSeq q Sequence.cleared)))
  | none => done s

/-- SEQ_EDIT (R334). -/
def execSeqEdit (step : BitVec 4) (data : DataField) (s : State) : Result :=
  done (s.withSeq { s.seq with edit := flagOperand data, editStep := stepOperand step })

end Sys2Proof.Machine
end

