-- ==== Sys2Proof/Machine/Arpeggiator.lean ====
section
/-! DEFINITION. The Arpeggiator (spec 48_arpeggiator): the note lists, the step, and the operations ARP_ENABLE,
SET_ARP_DIR, SET_ARP_STEP_MODE, SET_ARP_OCT_RANGE, SET_ARP_NOTE_DUR, SET_ARP_SOURCE and SET_ARP_MONO. -/

namespace Sys2Proof.Machine

/-! ## The note lists -/

/-- Put the stepping where a fresh list starts (R349, R351): position 0, the octave at the top of its range. -/
def freshArp (a : Arp) : Arp :=
  { a with pos := 0, oct := a.octRange, fresh := true, back := false, restart := false }

/-- `ArpClear()` (R349). -/
def arpClear (s : State) : State := s.withArp (freshArp { s.arp with raw := [], sorted := [], len := 0 })

/-- The list the stepping uses, for a source and a direction; the last branch leaves it as it is (R352). -/
def sortNotes (source : ArpSource) (dir : ArpDir) (raw old : List Note) : List Note :=
  match source, dir with
  | .frontPanel, .forward => raw
  | .frontPanel, .backward => raw.reverse
  | .midi, .forward => raw.insertionSort (· ≤ ·)
  | .midi, .backward => old

/-- `ArpSort()` (R352). -/
def arpSort (s : State) : State :=
  s.withArp { s.arp with sorted := sortNotes s.arp.source s.arp.dir s.arp.raw s.arp.sorted }

/-- The raw list became `raw`: it is sorted again and its length tracked (R351). -/
def arpRelist (raw : List Note) (s : State) : State :=
  let s := arpSort (s.withArp { s.arp with raw := raw })
  s.withArp { s.arp with len := raw.length }

/-- `ArpNoteOn(k, vel)` (R351). -/
def arpNoteOn (k : Note) (vel : Int) (s : State) : State :=
  if k ∈ s.arp.raw then s.withArp { s.arp with vel := vel }
  else if s.arp.raw.length = Config.arpCap then s
  else
    let s := if s.arp.raw = [] then s.withArp (freshArp s.arp) else s
    let s := s.withArp { s.arp with vel := vel }
    arpRelist (s.arp.raw ++ [k]) s

/-- `ArpNoteOff(k)` (R351). -/
def arpNoteOff (k : Note) (s : State) : State :=
  if k ∈ s.arp.raw then arpRelist (s.arp.raw.erase k) s else s

/-! ## Release -/

/-- `ArpRelease()` (R357). -/
def arpRelease (s : State) : State :=
  let s := envReleaseNow (s.withArp { s.arp with pendRel := none })
  match s.arp.note with
  | some p => (s.withOutbox { s.outbox with arpOff := some p }).withArp { s.arp with note := none }
  | none => s

/-- `if arpPendRel != none then call ArpRelease()`. -/
def arpReleasePending (s : State) : State := if s.arp.pendRel.isSome then arpRelease s else s

/-! ## The step -/

/-- An advance of the "2 forward, 1 back" pattern on `n` notes (R354). -/
def twoForwardOneBack (n : Nat) (a : Arp) : Arp :=
  if a.fresh then { a with pos := 0, fresh := false, back := false, restart := false }
  else if a.back then
    { a with
      pos := min a.pos (n - 1) - 1
      back := false
      fresh := a.restart
      restart := false }
  else
    { a with
      pos := min (min a.pos (n - 1) + 2) (n - 1)
      back := true
      restart := a.restart || decide (n - 1 < min a.pos (n - 1) + 2) }

/-- `ArpAdvance(n)` (R354). -/
def arpAdvance (n : Nat) (s : State) : State :=
  match s.arp.stepMode with
  | .step1 => s.withArp { s.arp with pos := (s.arp.pos + 1) % n }
  | .step2 => s.withArp { s.arp with pos := (s.arp.pos + 2) % n }
  | .step3 => s.withArp { s.arp with pos := (s.arp.pos + 3) % n }
  | .random =>
    let (p, s) := draw 0 ((n : Int) - 1) s
    s.withArp { s.arp with pos := p.toNat }
  | .twoForwardOneBack => s.withArp (twoForwardOneBack n s.arp)

/-- What ArpAssign does to voice v in mono-arp mode (R355), and MonoAssign in the mono modes (49_voice_allocator
R387): a note for voice 0 and the unison voices, silence at the next Attack for the others. -/
def assignUnison (k : Note) (v : Fin 4) (s : State) : State :=
  if v.val ≤ s.alloc.unisonCount then setNote v (some k) s else markMute v (setNote v none s)

/-- `ArpAssign(m)` (R355). -/
def arpAssign (m : Note) (s : State) : State :=
  if s.arp.mono then forVoices (assignUnison m) s else setNote 0 (some m) s

/-- The octave counter advances where the position is 0 (R353). -/
def arpOctaveStep (a : Arp) : Arp := if a.pos = 0 then { a with oct := (a.oct + 1) % (a.octRange + 1) } else a

/-- The step's note `m` is assigned, echoed and triggered, and its release scheduled (R353, R356). -/
def arpPlay (m : Note) (s : State) : State :=
  let s := arpAssign m s
  let s := s.withOutbox { s.outbox with
    arpOff := if s.arp.note.isSome then s.arp.note else s.outbox.arpOff
    arpOn := some (m, s.arp.vel) }
  let s := envTriggerWith s.arp.vel (s.withArp { s.arp with note := some m })
  s.withArp { s.arp with pendRel := some ((s.clock.pulse + s.arp.dur) % measure s) }

/-- `ArpStep()` (R353), called with at least one note held. -/
def arpStep (s : State) : State :=
  let s := arpAdvance s.arp.raw.length (s.withArp (arpOctaveStep s.arp))
  match s.arp.sorted[s.arp.pos]? with
  | some k => arpPlay (clampNote s.params (k + 12 * (s.arp.oct : Int))) s
  | none => s

/-- `ArpDispatch()` (R350). -/
def arpDispatch (s : State) : State :=
  let s := swingAtZero s
  let s := if s.arp.pendRel = some s.clock.pulse then arpRelease s else s
  if stepPulse s && decide (s.arp.raw ≠ []) then arpStep s else s

/-! ## Operations -/

/-- ARP_ENABLE (R341). -/
def execArpEnable (data : DataField) (s : State) : Result :=
  match flagOperand data, s.arp.on with
  | true, false =>
    let s := arpClear (allocReleaseAll s)
    done (s.withArp { s.arp with on := true })
  | false, true => done (arpClear (arpReleasePending (s.withArp { s.arp with on := false })))
  | true, true => done s
  | false, false => done s

/-- SET_ARP_DIR (R342). -/
def execSetArpDir (data : DataField) (s : State) : Result :=
  done (arpSort (s.withArp { s.arp with dir := arpDirOperand data }))

/-- SET_ARP_STEP_MODE (R343). -/
def execSetArpStepMode (data : DataField) (s : State) : Result :=
  done (s.withArp
    { s.arp with stepMode := arpStepModeOperand data, fresh := true, back := false, restart := false })

/-- SET_ARP_OCT_RANGE (R344). -/
def execSetArpOctRange (data : DataField) (s : State) : Result :=
  let r := countOperand 0 3 data
  done (s.withArp { s.arp with octRange := r, oct := s.arp.oct % (r + 1) })

/-- SET_ARP_NOTE_DUR (R345). -/
def execSetArpNoteDur (data : DataField) (s : State) : Result :=
  done (s.withArp { s.arp with dur := countOperand 1 95 data })

/-- SET_ARP_SOURCE (R346). -/
def execSetArpSource (data : DataField) (s : State) : Result :=
  done (arpSort (s.withArp { s.arp with source := arpSourceOperand data }))

/-- SET_ARP_MONO (R347). -/
def execSetArpMono (data : DataField) (s : State) : Result :=
  done (s.withArp { s.arp with mono := flagOperand data })

end Sys2Proof.Machine
end

