-- ==== Sys2Proof/Machine/AudioMixer.lean ====
section
/-! DEFINITION. The AudioMixer (spec 41_audio_mixer): the audio tick's stages in the order of R150, and the operations
AUDIO_TICK, SET_BITMUNCH, LOAD_MUTE and SET_MASTER_VOL. -/

namespace Sys2Proof.Machine

/-! ## The stages -/

/-- The index of an engine into its volume table: a random one for noise, else the raw sample (R155). -/
def engineIndex (e : Fin 2) (s : State) : Option (Int × State) :=
  if s.engines[e].wave = .noise then some (draw 0 Config.sampleMax s)
  else (engineRaw e s).map fun x => (x, s)

/-- An engine's volumed sample (R155). -/
def engineOut (e : Fin 2) (s : State) : Option (Int × State) := do
  let (i, s) ← engineIndex e s
  let x ← memRead (.vol e) i s
  return (x, s)

/-- `BitMunch(x)` (R157). -/
def bitMunch (depth : Nat) (x : Int) : Int := Config.centre + asr (x - Config.centre) depth * 2 ^ depth

/-- `LfoGain()` (R160). -/
def lfoGain (s : State) : Int :=
  clamp 0 Config.gainMax ((Config.gainMax - s.depth .lfoAmp) + s.lfoMod.ampMod)

/-- Stages s2 to s5: the bit muncher and the three amplitude multiplies (R157, R159, R160). -/
def amplitudeChain (s : State) (x : Int) : Int :=
  cmul (cmul (cmul (bitMunch s.mixer.bitMunch x) s.env.amp) (lfoGain s)) s.vel.amp

/-- `StepLoadRamp()` (R168). -/
def stepLoadRamp (s : State) : State :=
  s.withMixer { s.mixer with
    loadRamp :=
      clamp 0 Config.gainMax
        (if s.mixer.loadMute then s.mixer.loadRamp - s.params.loadRampStep
         else s.mixer.loadRamp + s.params.loadRampStep) }

/-- Stages s10 and s11 (R165). -/
def outputGain (s : State) (x : Int) : Int := cmul (cmul x s.mixer.loadRamp) s.mixer.masterVol

/-- Both output channels get the same sample (R166). -/
def emitSample (x : Int) (s : State) : State :=
  s.withMixer { s.mixer with outL := BitVec.ofInt 12 x, outR := BitVec.ofInt 12 x }

/-- `AudioTick()` (R150). -/
def audioTickStep (s : State) : Option State := do
  let s := phaseAdvance s
  let (vol0, s) ← engineOut 0 s
  let (vol1, s) ← engineOut 1 s
  let s5 := amplitudeChain s (asr (vol0 + vol1) 1)
  let s6 ← memRead .shaper s5 s
  let (s7, s) := filterStep s6 s
  let s9 ← memRead .gain (clamp 0 Config.sampleMax s7) s
  let s := stepLoadRamp s
  return emitSample (outputGain s s9) s

/-! ## Operations -/

/-- AUDIO_TICK (R150). -/
def execAudioTick (s : State) : Result := orTableFault (audioTickStep s)

/-- SET_BITMUNCH (R158). -/
def execSetBitmunch (data : DataField) (s : State) : Result :=
  done (s.withMixer { s.mixer with bitMunch := countOperand 0 s.params.bitMunchMax data })

/-- LOAD_MUTE (R167). -/
def execLoadMute (data : DataField) (s : State) : Result :=
  done (s.withMixer { s.mixer with loadMute := flagOperand data })

/-- SET_MASTER_VOL (R169). -/
def execSetMasterVol (data : DataField) (s : State) : Result :=
  done (s.withMixer { s.mixer with masterVol := uOperand 0 Config.gainMax data })

end Sys2Proof.Machine
end

