-- ==== Sys2Proof/Machine/LfoEngine.lean ====
section
/-! DEFINITION. The LfoEngine (spec 43_lfo): targets, outputs, synchronisation, the UI counters, and the operations
LFO_TICK, LFO_SYNC_RESET, SET_LFO_SHAPE, SET_LFO_RATE, SET_LFO_RANGE, SET_LFO_RETRIG, SET_LFO_SYNC and SET_MOD. -/

namespace Sys2Proof.Machine

/-! ## Targets -/

/-- `FreeTarget()` (R214). -/
def freeTarget (s : State) : Int :=
  clamp s.params.lfoTicksMin s.lfo.rate (s.lfo.rate - s.envMod.rate - s.vel.rate)

/-- SYNC_PULSES (R212, R215): clock pulses in a division; 0 when free-running, where no rule reads it. -/
def syncPulses (p : Params) : LfoSync → Nat
  | .free => 0
  | .eighth => p.syncPulses[0]
  | .quarter => p.syncPulses[1]
  | .half => p.syncPulses[2]
  | .whole => p.syncPulses[3]
  | .doubleWhole => p.syncPulses[4]

/-- SYNC_EIGHTHS (R212, R229): eighth notes in a division; 0 when free-running, where no rule reads it. -/
def syncEighths (p : Params) : LfoSync → Nat
  | .free => 0
  | .eighth => p.syncEighths[0]
  | .quarter => p.syncEighths[1]
  | .half => p.syncEighths[2]
  | .whole => p.syncEighths[3]
  | .doubleWhole => p.syncEighths[4]

/-- `SyncTarget()` (R215). -/
def syncTarget (s : State) : Int :=
  max 1 (((s.clock.periodUs * syncPulses s.params s.lfo.sync * s.params.lfoTickHz : Nat) : Int)
    / (1000000 * (Config.tableLen : Int)))

/-- `LfoTarget()` (R216). -/
def lfoTarget (s : State) : Int := if s.lfo.sync = .free then freeTarget s else syncTarget s

/-! ## Outputs -/

/-- L, the LFO's sample as a distance from the centre (R220). -/
def lfoLevel (s : State) : Int := s.lfo.val - Config.centre

/-- `LfoPitch(e)` for the depth of an engine (R221). -/
def lfoPitchOut (p : Params) (level f : Int) : Int :=
  asr (level * f * (if f < p.lfoPitchKnee then 1 else p.lfoPitchBoost)) p.lfoPitchShift

/-- The octave offsets and the increments, re-derived while the envelope is not Idle (R226). -/
def lfoOctaves (s : State) : State :=
  if s.env.stage = .idle then s
  else
    deriveIncrements
      (s.withLfoMod { s.lfoMod with
        oct := #v[asr (lfoLevel s * s.depth .lfoOct1) s.params.lfoOctShift,
          asr (lfoLevel s * s.depth .lfoOct2) s.params.lfoOctShift] })

/-- `LfoOutputs()` (R220 to R226). -/
def lfoOutputs (s : State) : State :=
  let s := s.withLfoMod { s.lfoMod with
    pitch := #v[lfoPitchOut s.params (lfoLevel s) (s.depth .lfoPitch1),
      lfoPitchOut s.params (lfoLevel s) (s.depth .lfoPitch2)]
    cut := asr (lfoLevel s * s.depth .lfoCut) s.params.lfoCutShift }
  let s := updateFilterCoef s
  let s := s.withLfoMod { s.lfoMod with
    ampMod := asr (s.lfo.val * s.depth .lfoAmp) s.params.lfoAmpShift
    pw := asr (lfoLevel s * s.depth .lfoPw) s.params.lfoPwShift }
  lfoOctaves (updatePulseWidth s)

/-! ## Synchronisation -/

/-- `LfoSyncReset()` (R228). -/
def lfoResync (s : State) : State := s.withLfo { s.lfo with index := 0, counter := 0, eighthSync := 0 }

/-- `ClockLfoSync()` (R229), called on pulse 0. -/
def clockLfoSync (s : State) : State :=
  if s.lfo.sync = .free then s
  else
    let s := s.withLfo { s.lfo with eighthSync := s.lfo.eighthSync + 1 }
    if syncEighths s.params s.lfo.sync ≤ s.lfo.eighthSync then lfoResync s else s

/-! ## The tick -/

/-- `UiCounters()` (R230). -/
def uiTick (p : Params) (u : Ui) : Ui where
  uiCounter := if p.uiRefreshDiv ≤ u.uiCounter + 1 then 0 else u.uiCounter + 1
  refreshDue := u.refreshDue || decide (p.uiRefreshDiv ≤ u.uiCounter + 1)
  arrowCounter := if p.arrowDiv ≤ u.arrowCounter + 1 then 0 else u.arrowCounter + 1
  arrowFrame := if p.arrowDiv ≤ u.arrowCounter + 1 then (u.arrowFrame + 1) % 256 else u.arrowFrame
  blinkCounter := if p.blinkDiv ≤ u.blinkCounter + 1 then 0 else u.blinkCounter + 1
  blinkOn := if p.blinkDiv ≤ u.blinkCounter + 1 then !u.blinkOn else u.blinkOn

/-- An advance of the LFO table (R217). -/
def lfoAdvance (s : State) : Option State := do
  let s := s.withLfo { s.lfo with counter := 0, index := (s.lfo.index + 1) % Config.tableLen }
  let (x, s) ← wtRead s.lfo.shape (s.lfo.index : Int) s
  return lfoOutputs (s.withLfo { s.lfo with val := x })

/-- `LfoTick()` (R217). -/
def lfoTickStep (s : State) : Option State :=
  let s := s.withUi (uiTick s.params s.ui)
  let s := s.withLfo { s.lfo with counter := s.lfo.counter + 1 }
  if lfoTarget s ≤ (s.lfo.counter : Int) then lfoAdvance s else some s

/-! ## Operations -/

/-- LFO_TICK (R217). -/
def execLfoTick (s : State) : Result := orTableFault (lfoTickStep s)

/-- LFO_SYNC_RESET (R228). -/
def execLfoSyncReset (s : State) : Result := done (lfoResync s)

/-- SET_LFO_SHAPE (R232). -/
def execSetLfoShape (data : DataField) (s : State) : Result :=
  done (s.withLfo { s.lfo with shape := waveOperand data })

/-- SET_LFO_RATE (R233). -/
def execSetLfoRate (data : DataField) (s : State) : Result :=
  done (s.withLfo { s.lfo with rate := uOperand s.params.lfoTicksMin s.params.lfoTicksMax data })

/-- SET_LFO_RANGE (R234). -/
def execSetLfoRange (data : DataField) (s : State) : Result :=
  done (s.withLfo { s.lfo with range := countOperand 0 3 data })

/-- SET_LFO_RETRIG (R235). -/
def execSetLfoRetrig (data : DataField) (s : State) : Result :=
  done (s.withLfo { s.lfo with retrig := flagOperand data })

/-- SET_LFO_SYNC (R236). -/
def execSetLfoSync (data : DataField) (s : State) : Result :=
  done (s.withLfo { s.lfo with sync := lfoSyncOperand data, eighthSync := 0 })

/-- SET_MOD (R237). -/
def execSetMod (sel : SelField) (data : DataField) (s : State) : Result :=
  match selOperand 17 sel with
  | some k => done (lfoOutputs (s.withMatrix (s.matrix.set k (uOperand 0 Config.gainMax data))))
  | none => done s

end Sys2Proof.Machine
end

