-- ==== Sys2Proof/Machine/ClockEngine.lean ====
section
/-! DEFINITION. The ClockEngine (spec 46_clock): the tick and its dispatch, the external clock, and the operations
CLOCK_TICK, SET_BPM, SET_DIVISION, EXT_CLOCK, EXT_START, EXT_STOP, SET_MIDI_SYNC and CLOCK_POLL. -/

namespace Sys2Proof.Machine

/-! ## The tick -/

/-- The LFO sync point (R275, R276). -/
def lfoSyncPoint (s : State) : State := if s.clock.pulse = 0 then clockLfoSync s else s

/-- One MIDI clock pulse waits in the outbox; the count saturates (R275, R277). -/
def emitMidiClock (s : State) : State :=
  if s.clock.outClockPhase = 0 then s.withOutbox { s.outbox with clock := min 255 (s.outbox.clock + 1) } else s

/-- MIDI clock out (R277). -/
def midiClockStep (s : State) : State :=
  if s.clock.midiClockOut then
    (emitMidiClock s).withClock
      { s.clock with outClockPhase := (s.clock.outClockPhase + 1) % Config.midiClkOutDiv }
  else s

/-- The activity indicator (R278). -/
def beatStep (s : State) : State :=
  s.withClock { s.clock with beatLed := decide (s.clock.pulse < Config.ledPulses) }

/-- `freeLatch <- b`. -/
def setFreeLatch (b : Bool) (s : State) : State := s.withClock { s.clock with freeLatch := b }

/-- `FreePlay()` (R280). -/
def freePlay (s : State) : State :=
  if s.clock.freeLatch then s else arpReleasePending (seqReleasePending (setFreeLatch true s))

/-- Exactly one of the arpeggiator, the sequencer and free play runs per tick (R279). -/
def clockDispatch (s : State) : Option State :=
  if s.arp.on then some (arpDispatch (setFreeLatch false s))
  else if s.seq.running then seqDispatch (setFreeLatch false s)
  else some (freePlay s)

/-- The eighth-note counter is a 32-bit count that wraps (R281). -/
def nextEighth (n : Nat) : Nat := (n + 1) % 4294967296

/-- The pulse advance (R281). -/
def pulseAdvance (s : State) : State :=
  if measure s ≤ s.clock.pulse + 1 then
    s.withClock { s.clock with pulse := 0, eighth := nextEighth s.clock.eighth }
  else s.withClock { s.clock with pulse := s.clock.pulse + 1 }

/-- `ClockTick()` (R275). -/
def clockTickStep (s : State) : Option State :=
  (clockDispatch (beatStep (midiClockStep (lfoSyncPoint s)))).map pulseAdvance

/-! ## The external clock -/

/-- The phase lock: the first message of an external eighth re-zeroes the pulse counter (R283). -/
def extPhaseLock (s : State) : State :=
  if s.ext.extPulse = 0 then s.withClock { s.clock with pulse := 0, eighth := nextEighth s.clock.eighth } else s

/-- The rest of EXT_CLOCK once incoming clock is obeyed and a loss was noticed (R283). -/
def extClockMessage (s : State) : State :=
  let s := recomputeSwing (s.withClock { s.clock with receivingClock := true })
  let s := extPhaseLock s
  let s := s.withExt { s.ext with extPulse := (s.ext.extPulse + 1) % Config.extPulsesPerEighth }
  let s := if s.ext.extSeen then bpmEstimate (s.since s.ext.lastExtTime) s else s
  s.withExt { s.ext with lastExtTime := s.inputs.now, extSeen := true }

/-- `if receivingClock and elapsed(lastExtTime) >= EXT_TIMEOUT_US then call ExtLost()` (R283, R286). -/
def noticeExtLoss (s : State) : State := if extTimedOut s then extLost s else s

/-! ## Operations -/

/-- CLOCK_TICK (R275). -/
def execClockTick (s : State) : Result := orTableFault (clockTickStep s)

/-- SET_BPM (R271). -/
def execSetBpm (data : DataField) (s : State) : Result :=
  done (setTempo (countOperand Config.bpmMin Config.bpmMax data) s)

/-- SET_DIVISION (R272). -/
def execSetDivision (data : DataField) (s : State) : Result :=
  let sel := countOperand 0 3 data
  done (setDiv sel (s.withClock { s.clock with divSel := sel }))

/-- EXT_CLOCK (R283). -/
def execExtClock (s : State) : Result :=
  if s.clock.extSyncEnable then done (extClockMessage (noticeExtLoss s)) else done s

/-- EXT_START (R287). -/
def execExtStart (s : State) : Result :=
  if s.clock.extSyncEnable then
    let s := s.withClock { s.clock with pulse := 0, outClockPhase := 0 }
    done (startSeq (s.withExt { s.ext with extPulse := 0 }))
  else done s

/-- EXT_STOP (R288). -/
def execExtStop (s : State) : Result := if s.clock.extSyncEnable then done (stopSeq s) else done s

/-- SET_MIDI_SYNC (R289). -/
def execSetMidiSync (data : DataField) (s : State) : Result :=
  let out := data.getLsbD 0
  let obey := data.getLsbD 1
  let s := s.withClock { s.clock with
    midiClockOut := out
    extSyncEnable := obey
    outClockPhase := if out then s.clock.outClockPhase else 0 }
  if !obey && s.clock.receivingClock then done (extLost s) else done s

/-- CLOCK_POLL (R286). -/
def execClockPoll (s : State) : Result := done (noticeExtLoss s)

end Sys2Proof.Machine
end

