-- ==== Sys2Proof/Machine/Keys.lean ====
section
/-! DEFINITION. The VoiceAllocator's note policies (spec 49_voice_allocator R375, R376, R382 to R388): paraphonic and
monophonic allocation, and the operations KEY_ON and KEY_OFF. -/

namespace Sys2Proof.Machine

/-! ## Paraphonic mode -/

/-- Mark every voice but `v` as muted on the next trigger (R382). -/
def markOthers (v : Fin 4) (s : State) : State :=
  forVoices (fun u s => if u = v then s else markMute u s) s

/-- `ParaKeyOn(k, vel)` (R382). -/
def paraKeyOn (k : Note) (vel : Int) (s : State) : State :=
  match voiceOfKey k s with
  | some v => envTriggerWith vel (setNote v (some k) s)
  | none =>
    match freeVoice s with
    | none => s
    | some v =>
      let first := !anyKey s
      let s := setNote v (some k) (setKey v (some k) s)
      envTriggerWith vel (if first then markOthers v s else s)

/-- `ParaKeyOff(k)` (R384). -/
def paraKeyOff (k : Note) (s : State) : State :=
  match voiceOfKey k s with
  | none => s
  | some v =>
    let s := setKey v none s
    if anyKey s then silence v (setNote v none s) else envReleaseNow s

/-! ## Mono modes -/

/-- The held list with key `k` pressed: a key already held moves to the end, and a full list forgets its oldest key
(R385). -/
def pressHeld (cap : Nat) (k : Note) (held : List Note) : List Note :=
  let l := held.erase k
  (if l.length = cap then l.tail else l) ++ [k]

/-- `Winner()` (R386) for the keys held and the mode; nothing where no key is held or the mode has no winner. -/
def winner (m : VoiceMode) (held : List Note) : Option Note :=
  match m with
  | .paraphonic => none
  | .monoHighest => held.max?
  | .monoLowest => held.min?
  | .monoLast => held.getLast?

/-- `MonoAssign(k)` (R387). -/
def monoAssign (k : Note) (s : State) : State :=
  let s := setKey 0 (some k) (s.mapVoices fun x => { x with key := none })
  forVoices (assignUnison k) s

/-- `MonoKeyOn(k, vel)` (R385). -/
def monoKeyOn (k : Note) (vel : Int) (s : State) : State :=
  let s := s.withAlloc { s.alloc with held := pressHeld s.params.heldCap k s.alloc.held }
  if winner s.alloc.voiceMode s.alloc.held = some k then envTriggerWith vel (monoAssign k s) else s

/-- `MonoKeyOff(k)` (R388). -/
def monoKeyOff (k : Note) (s : State) : State :=
  if k ∈ s.alloc.held then
    let s := s.withAlloc { s.alloc with held := s.alloc.held.erase k }
    match winner s.alloc.voiceMode s.alloc.held with
    | none => envReleaseNow (setKey 0 none s)
    | some w => if s.voices[0].key = some w then s else monoAssign w s
  else s

/-! ## Operations -/

/-- The part of KEY_ON that runs while the arpeggiator is off (R375). -/
def allocKeyOn (k : Note) (vel : Int) (s : State) : State :=
  let s := if s.alloc.voiceMode = .paraphonic then paraKeyOn k vel s else monoKeyOn k vel s
  if s.seq.edit then seqCapture s else s

/-- KEY_ON (R375). -/
def execKeyOn (addr : AddrField) (data : DataField) (s : State) : Result :=
  if s.arp.on then done (arpNoteOn (noteOperand s.params addr) (velOperand data) s)
  else done (allocKeyOn (noteOperand s.params addr) (velOperand data) s)

/-- KEY_OFF (R376). -/
def execKeyOff (addr : AddrField) (s : State) : Result :=
  if s.arp.on then done (arpNoteOff (noteOperand s.params addr) s)
  else if s.alloc.voiceMode = .paraphonic then done (paraKeyOff (noteOperand s.params addr) s)
  else done (monoKeyOff (noteOperand s.params addr) s)

end Sys2Proof.Machine
end

