-- ==== Sys2Proof/Machine/Shaper.lean ====
section
/-! DEFINITION. Waveshaper and Gain (spec 45_waveshaper_gain): the contents of the two lookup tables and the operations
SET_SHAPER and SET_GAIN, which rebuild them whole (R263). -/

namespace Sys2Proof.Machine

/-- One fold of an overdriven distance back into the sample range (R257). -/
def fold (y : Int) : Int := if 2047 < y then 4094 - y else if y < -2048 then -4096 - y else y

/-- The distance of a sample from the centre, driven by a factor in 1/1024ths. -/
def driven (d factor : Int) : Int := asr (d * factor) 10

/-- The curves the default SHAPER_GEN lists besides the identity (R257); nothing for a type it does not list. -/
def listedCurve (t : Nat) (a x : Int) : Option Int :=
  let d := x - Config.centre
  match t with
  | 1 => some (clamp 0 Config.sampleMax (Config.centre + driven d (1024 + 7 * a)))
  | 2 => some (clamp 0 Config.sampleMax (Config.centre + fold (driven d (1024 + 3 * a))))
  | 3 => some (clamp 0 Config.sampleMax (Config.centre + d + asr ((|d| - d) * a) 10))
  | _ => none

/-- The word SHAPER holds at x, `SHAPER_GEN(type, a, x)` (R256, R257, R258): type 0 is the identity; the other types are
the listed curves, or the implementation's where the configuration says so or R257 lists none. -/
def shaperEntry (p : Params) (t : Nat) (a : Int) (x : Nat) : Sample :=
  if t = 0 then BitVec.ofNat 12 x
  else
    match p.shaperGen, listedCurve t a (x : Int) with
    | .listed, some y => BitVec.ofInt 12 y
    | _, _ => Config.shaperCurve t a.toNat x

/-- The word GAIN holds at x (R261). -/
def gainEntry (p : Params) (amount : Int) (x : Nat) : Sample :=
  BitVec.ofInt 12 (clamp 0 Config.sampleMax
    (Config.centre + driven ((x : Int) - Config.centre) (1024 + p.gainSlope * amount)))

/-- SET_SHAPER (R258). -/
def execSetShaper (sel : SelField) (data : DataField) (s : State) : Result :=
  match shaperTypeOperand s.params sel with
  | some t =>
    let amount := uOperand 0 Config.gainMax data
    done ((s.withShape { s.shape with shaperType := t, shaperAmount := amount }).withMem
      (s.mem.fill .shaper (shaperEntry s.params t amount)))
  | none => done s

/-- SET_GAIN (R262). -/
def execSetGain (data : DataField) (s : State) : Result :=
  let amount := uOperand 0 Config.gainMax data
  done ((s.withShape { s.shape with gainAmount := amount }).withMem (s.mem.fill .gain (gainEntry s.params amount)))

end Sys2Proof.Machine
end

