-- ==== Sys2Proof/Machine/System.lean ====
section
/-! DEFINITION. The operations NOP, RESET, CLR_STATUS, REPORT_STORE_ERR and OUTBOX_DRAIN (spec 70_reset_and_hazards,
60_exceptions), and the response word (30_encoding R113). -/

namespace Sys2Proof.Machine

/-! ## The response word (30_encoding R113) -/

/-- A note as an 8-bit two's complement number; `none` is zero. -/
def noteByte (x : Option Note) : BitVec 8 :=
  match x with
  | some n => BitVec.ofInt 8 n
  | none => 0#8

/-- A velocity, 7 bits. -/
def velField (vel : Int) : BitVec 7 := BitVec.ofInt 7 vel

/-- A batch's four notes, voice v in bits 8v+7:8v (RSP1, RSP3). -/
def batchNotes (x : Vector (Option Note) 4) : BitVec 32 :=
  noteByte x[3] ++ noteByte x[2] ++ noteByte x[1] ++ noteByte x[0]

/-- Which of a batch's four entries are notes, voice v in bit v. -/
def batchMask (x : Vector (Option Note) 4) : BitVec 4 :=
  BitVec.ofBool x[3].isSome ++ BitVec.ofBool x[2].isSome ++ BitVec.ofBool x[1].isSome ++ BitVec.ofBool x[0].isSome

/-- An empty batch. -/
def emptyBatch : Vector (Option Note) 4 := Vector.replicate 4 none

/-- RSP0: the arpeggiator's event. -/
def rsp0 (b : Outbox) : BitVec 32 :=
  (match b.arpOn with
    | some (n, vel) => 1#1 ++ velField vel ++ BitVec.ofInt 8 n
    | none => 0#16) ++
  (match b.arpOff with
    | some n => 1#1 ++ 0#7 ++ BitVec.ofInt 8 n
    | none => 0#16)

/-- RSP1: the notes of the sequencer's note-on batch. -/
def rsp1 (b : Outbox) : BitVec 32 := batchNotes ((b.seqOn.map (·.notes)).getD emptyBatch)

/-- RSP2: which batches are present, the note-on velocity, the note masks and the MIDI clock count. -/
def rsp2 (b : Outbox) : BitVec 32 :=
  (match b.seqOn with
    | some x => 1#1 ++ velField x.vel ++ 0#4 ++ batchMask x.notes
    | none => 0#16) ++
  (match b.seqOff with
    | some x => 1#1 ++ 0#3 ++ batchMask x
    | none => 0#8) ++
  BitVec.ofNat 8 b.clock

/-- RSP3: the notes of the sequencer's note-off batch. -/
def rsp3 (b : Outbox) : BitVec 32 := batchNotes (b.seqOff.getD emptyBatch)

/-- RSP4: STATUS and the UI indicators. -/
def rsp4 (s : State) : BitVec 32 :=
  0#8 ++ statusWord s ++ BitVec.ofNat 8 s.ui.arrowFrame ++ 0#6 ++ BitVec.ofBool s.ui.blinkOn ++
    BitVec.ofBool s.ui.refreshDue

/-- RSP, RSP0 in bits 31:0 to RSP4 in bits 159:128. -/
def response (s : State) : RspWord :=
  rsp4 s ++ rsp3 s.outbox ++ rsp2 s.outbox ++ rsp1 s.outbox ++ rsp0 s.outbox

/-- The outbox after a drain: `seqNotes` stays (60_exceptions R425). -/
def Outbox.drained (b : Outbox) : Outbox :=
  { b with arpOn := none, arpOff := none, seqOn := none, seqOff := none, clock := 0 }

/-! ## Operations -/

/-- NOP (70_reset_and_hazards R441). -/
def execNop (s : State) : Result := done s

/-- RESET (70_reset_and_hazards R440, R445): every field at its reset value and the pending request latches cleared.
The configuration and the inputs are not the block's to reset, and CMD_READY still tells that this command is executed
(DESIGN CHOICE: log 6). -/
def execReset (s : State) : Result :=
  done { s with
    toBlock := { Block.reset s.params with ports := { (Block.reset s.params).ports with cmdReady := s.ports.cmdReady } } }

/-- CLR_STATUS (60_exceptions R412). -/
def execClrStatus (data : DataField) (s : State) : Result := done (clearSticky data s)

/-- REPORT_STORE_ERR (60_exceptions R414). -/
def execReportStoreErr (s : State) : Result := done (takeStorageError s)

/-- OUTBOX_DRAIN (60_exceptions R425): the response is built from the values before the clearing. -/
def execOutboxDrain (s : State) : Result :=
  let rsp := response s
  let s := s.withPorts { s.ports with rsp := rsp, rspValid := true }
  done ((s.withOutbox s.outbox.drained).withUi { s.ui with refreshDue := false })

end Sys2Proof.Machine
end

