-- ==== Sys2Proof/Machine/Dispatch.lean ====
section
/-! DEFINITION. The dispatch: one direct call of a meaning per operation. -/

namespace Sys2Proof.Machine

def exec (i : Instr) (s : State) : Host.Outcome State Fault Refusal :=
  match i with
  | .nop => Sys2Proof.Machine.execNop s
  | .audioTick => Sys2Proof.Machine.execAudioTick s
  | .lfoTick => Sys2Proof.Machine.execLfoTick s
  | .envTick => Sys2Proof.Machine.execEnvTick s
  | .clockTick => Sys2Proof.Machine.execClockTick s
  | .reset => Sys2Proof.Machine.execReset s
  | .loadMute data => Sys2Proof.Machine.execLoadMute data s
  | .setMasterVol data => Sys2Proof.Machine.execSetMasterVol data s
  | .clrStatus data => Sys2Proof.Machine.execClrStatus data s
  | .reportStoreErr => Sys2Proof.Machine.execReportStoreErr s
  | .setBitmunch data => Sys2Proof.Machine.execSetBitmunch data s
  | .outboxDrain => Sys2Proof.Machine.execOutboxDrain s
  | .setWave sel data => Sys2Proof.Machine.execSetWave sel data s
  | .setOctave sel data => Sys2Proof.Machine.execSetOctave sel data s
  | .setVolume sel data => Sys2Proof.Machine.execSetVolume sel data s
  | .setDetune sel data => Sys2Proof.Machine.execSetDetune sel data s
  | .setPw data => Sys2Proof.Machine.execSetPw data s
  | .writeWavetable sel addr data => Sys2Proof.Machine.execWriteWavetable sel addr data s
  | .setAttack data => Sys2Proof.Machine.execSetAttack data s
  | .setDecay data => Sys2Proof.Machine.execSetDecay data s
  | .setSustain data => Sys2Proof.Machine.execSetSustain data s
  | .setRelease data => Sys2Proof.Machine.execSetRelease data s
  | .envTrigger data => Sys2Proof.Machine.execEnvTrigger data s
  | .envRelease => Sys2Proof.Machine.execEnvRelease s
  | .setLfoShape data => Sys2Proof.Machine.execSetLfoShape data s
  | .setLfoRate data => Sys2Proof.Machine.execSetLfoRate data s
  | .setLfoRange data => Sys2Proof.Machine.execSetLfoRange data s
  | .setLfoRetrig data => Sys2Proof.Machine.execSetLfoRetrig data s
  | .setLfoSync data => Sys2Proof.Machine.execSetLfoSync data s
  | .lfoSyncReset => Sys2Proof.Machine.execLfoSyncReset s
  | .setMod sel data => Sys2Proof.Machine.execSetMod sel data s
  | .setCutoff data => Sys2Proof.Machine.execSetCutoff data s
  | .setResonance data => Sys2Proof.Machine.execSetResonance data s
  | .setFilterMode data => Sys2Proof.Machine.execSetFilterMode data s
  | .setFilterBypass data => Sys2Proof.Machine.execSetFilterBypass data s
  | .setShaper sel data => Sys2Proof.Machine.execSetShaper sel data s
  | .setGain data => Sys2Proof.Machine.execSetGain data s
  | .setBpm data => Sys2Proof.Machine.execSetBpm data s
  | .setDivision data => Sys2Proof.Machine.execSetDivision data s
  | .extClock => Sys2Proof.Machine.execExtClock s
  | .extStart => Sys2Proof.Machine.execExtStart s
  | .extStop => Sys2Proof.Machine.execExtStop s
  | .setMidiSync data => Sys2Proof.Machine.execSetMidiSync data s
  | .clockPoll => Sys2Proof.Machine.execClockPoll s
  | .seqStart => Sys2Proof.Machine.execSeqStart s
  | .seqStop => Sys2Proof.Machine.execSeqStop s
  | .seqSelect sel => Sys2Proof.Machine.execSeqSelect sel s
  | .setPlayMode data => Sys2Proof.Machine.execSetPlayMode data s
  | .setBankMode data => Sys2Proof.Machine.execSetBankMode data s
  | .seqWrite sel field sub step data => Sys2Proof.Machine.execSeqWrite sel field sub step data s
  | .seqSetParam sel addr data => Sys2Proof.Machine.execSeqSetParam sel addr data s
  | .seqCopy sel addr => Sys2Proof.Machine.execSeqCopy sel addr s
  | .seqClear sel => Sys2Proof.Machine.execSeqClear sel s
  | .seqEdit step data => Sys2Proof.Machine.execSeqEdit step data s
  | .arpEnable data => Sys2Proof.Machine.execArpEnable data s
  | .setArpDir data => Sys2Proof.Machine.execSetArpDir data s
  | .setArpStepMode data => Sys2Proof.Machine.execSetArpStepMode data s
  | .setArpOctRange data => Sys2Proof.Machine.execSetArpOctRange data s
  | .setArpNoteDur data => Sys2Proof.Machine.execSetArpNoteDur data s
  | .setArpSource data => Sys2Proof.Machine.execSetArpSource data s
  | .setArpMono data => Sys2Proof.Machine.execSetArpMono data s
  | .keyOn addr data => Sys2Proof.Machine.execKeyOn addr data s
  | .keyOff addr => Sys2Proof.Machine.execKeyOff addr s
  | .setVoiceMode data => Sys2Proof.Machine.execSetVoiceMode data s
  | .setUnison data => Sys2Proof.Machine.execSetUnison data s
  | .setUnisonSpread data => Sys2Proof.Machine.execSetUnisonSpread data s
  | .setPortamento data => Sys2Proof.Machine.execSetPortamento data s
  | .setVoice sel data => Sys2Proof.Machine.execSetVoice sel data s

end Sys2Proof.Machine
end

