-- ==== Sys2Proof/WellFormed.lean ====
section
/-! DEFINITION. Which operations name things that exist (30_encoding R106, R110): a selector or address outside the
range its operation gives makes the operation do nothing. DATA is never ill-formed: it is clamped (60_exceptions R413). -/

namespace Sys2Proof

/-- A selector below `n` (30_encoding R106). -/
def selBelow (n : Nat) (sel : SelField) : Bool := decide (sel.toNat < n)

/-- An address below `n` (30_encoding R110). -/
def addrBelow (n : Nat) (addr : AddrField) : Bool := decide (addr.toNat < n)

/-- A field and sub-index that SEQ_WRITE writes: fields 0 to 5, and a voice or controller slot 0..3 where the field has
one (30_encoding R108, R110). -/
def seqFieldExists (field sub : BitVec 4) : Bool :=
  match field.toNat with
  | 0 => decide (sub.toNat < 4)
  | 1 => true
  | 2 => true
  | 3 => true
  | 4 => decide (sub.toNat < 4)
  | 5 => decide (sub.toNat < 4)
  | _ => false

/-- SEL and ADDR of the operation name something that exists in a configuration. -/
def Instr.WellFormed (p : Params) : Instr → Bool
  | .nop => true
  | .audioTick => true
  | .lfoTick => true
  | .envTick => true
  | .clockTick => true
  | .reset => true
  | .loadMute _ => true
  | .setMasterVol _ => true
  | .clrStatus _ => true
  | .reportStoreErr => true
  | .setBitmunch _ => true
  | .outboxDrain => true
  | .setWave sel _ => selBelow 2 sel
  | .setOctave sel _ => selBelow 2 sel
  | .setVolume sel _ => selBelow 2 sel
  | .setDetune sel _ => selBelow 2 sel
  | .setPw _ => true
  | .writeWavetable sel addr _ => selBelow 3 sel && addrBelow 600 addr
  | .setAttack _ => true
  | .setDecay _ => true
  | .setSustain _ => true
  | .setRelease _ => true
  | .envTrigger _ => true
  | .envRelease => true
  | .setLfoShape _ => true
  | .setLfoRate _ => true
  | .setLfoRange _ => true
  | .setLfoRetrig _ => true
  | .setLfoSync _ => true
  | .lfoSyncReset => true
  | .setMod sel _ => selBelow 17 sel
  | .setCutoff _ => true
  | .setResonance _ => true
  | .setFilterMode _ => true
  | .setFilterBypass _ => true
  | .setShaper sel _ => selBelow p.nShaperType sel
  | .setGain _ => true
  | .setBpm _ => true
  | .setDivision _ => true
  | .extClock => true
  | .extStart => true
  | .extStop => true
  | .setMidiSync _ => true
  | .clockPoll => true
  | .seqStart => true
  | .seqStop => true
  | .seqSelect sel => selBelow 8 sel
  | .setPlayMode _ => true
  | .setBankMode _ => true
  | .seqWrite sel field sub _ _ => selBelow 8 sel && seqFieldExists field sub
  | .seqSetParam sel addr _ => selBelow 8 sel && addrBelow 6 addr
  | .seqCopy sel addr => selBelow 8 sel && addrBelow 8 addr
  | .seqClear sel => selBelow 8 sel
  | .seqEdit _ _ => true
  | .arpEnable _ => true
  | .setArpDir _ => true
  | .setArpStepMode _ => true
  | .setArpOctRange _ => true
  | .setArpNoteDur _ => true
  | .setArpSource _ => true
  | .setArpMono _ => true
  | .keyOn _ _ => true
  | .keyOff _ => true
  | .setVoiceMode _ => true
  | .setUnison _ => true
  | .setUnisonSpread _ => true
  | .setPortamento _ => true
  | .setVoice sel _ => selBelow 4 sel

end Sys2Proof
end

