-- ==== Sys2Proof/Decode.lean ====
section
/-! DEFINITION. The decoder and the encoder of the 64-bit command word (30_encoding R101, R102, R108, R109, R114). An
operation is selected by OP alone (R114); the decoder refuses, by name, every OP that R102 does not list (R109). The
encoder writes the fields an operation does not read as zero (R103). -/

namespace Sys2Proof

/-! ## The fields of a command word (30_encoding R101) -/

/-- OP, bits 63:56. -/
def opOf (w : CmdWord) : OpField := w.extractLsb' 56 8

/-- SEL, bits 55:48. -/
def selOf (w : CmdWord) : SelField := w.extractLsb' 48 8

/-- ADDR, bits 47:32. -/
def addrOf (w : CmdWord) : AddrField := w.extractLsb' 32 16

/-- DATA, bits 31:0. -/
def dataOf (w : CmdWord) : DataField := w.extractLsb' 0 32

/-- `CMD = OP ++ SEL ++ ADDR ++ DATA` (30_encoding R101). -/
def packWord (op : OpField) (sel : SelField) (addr : AddrField) (data : DataField) : CmdWord :=
  op ++ sel ++ addr ++ data

/-- ADDR[11:8], SEQ_WRITE's field (30_encoding R108). -/
def seqFieldOf (addr : AddrField) : BitVec 4 := addr.extractLsb' 8 4

/-- ADDR[7:4], SEQ_WRITE's sub-index (30_encoding R108). -/
def seqSubOf (addr : AddrField) : BitVec 4 := addr.extractLsb' 4 4

/-- ADDR[3:0], SEQ_WRITE's step (30_encoding R108) and SEQ_EDIT's edit step (47_sequencer R334). -/
def stepOf (addr : AddrField) : BitVec 4 := addr.extractLsb' 0 4

/-- The ADDR of a SEQ_WRITE, its four unread high bits zero. -/
def packSeqAddr (field sub step : BitVec 4) : AddrField := 0#4 ++ field ++ sub ++ step

/-! ## Decoding -/

/-- Why a command word is no operation. -/
inductive DecodeError where
  /-- The word's OP is not listed in 30_encoding R102 (R109). -/
  | illegalOp (op : OpField)
  deriving DecidableEq, Repr

/-- The operation a command word asks for (30_encoding R102), or the reason it asks for none (R109). -/
def decode (w : CmdWord) : Except DecodeError Instr :=
  match opOf w with
  | 0x00#8 => .ok .nop
  | 0x01#8 => .ok .audioTick
  | 0x02#8 => .ok .lfoTick
  | 0x03#8 => .ok .envTick
  | 0x04#8 => .ok .clockTick
  | 0x05#8 => .ok .reset
  | 0x06#8 => .ok (.loadMute (dataOf w))
  | 0x07#8 => .ok (.setMasterVol (dataOf w))
  | 0x08#8 => .ok (.clrStatus (dataOf w))
  | 0x09#8 => .ok .reportStoreErr
  | 0x0A#8 => .ok (.setBitmunch (dataOf w))
  | 0x0B#8 => .ok .outboxDrain
  | 0x10#8 => .ok (.setWave (selOf w) (dataOf w))
  | 0x11#8 => .ok (.setOctave (selOf w) (dataOf w))
  | 0x12#8 => .ok (.setVolume (selOf w) (dataOf w))
  | 0x13#8 => .ok (.setDetune (selOf w) (dataOf w))
  | 0x14#8 => .ok (.setPw (dataOf w))
  | 0x15#8 => .ok (.writeWavetable (selOf w) (addrOf w) (dataOf w))
  | 0x20#8 => .ok (.setAttack (dataOf w))
  | 0x21#8 => .ok (.setDecay (dataOf w))
  | 0x22#8 => .ok (.setSustain (dataOf w))
  | 0x23#8 => .ok (.setRelease (dataOf w))
  | 0x24#8 => .ok (.envTrigger (dataOf w))
  | 0x25#8 => .ok .envRelease
  | 0x30#8 => .ok (.setLfoShape (dataOf w))
  | 0x31#8 => .ok (.setLfoRate (dataOf w))
  | 0x32#8 => .ok (.setLfoRange (dataOf w))
  | 0x33#8 => .ok (.setLfoRetrig (dataOf w))
  | 0x34#8 => .ok (.setLfoSync (dataOf w))
  | 0x35#8 => .ok .lfoSyncReset
  | 0x36#8 => .ok (.setMod (selOf w) (dataOf w))
  | 0x40#8 => .ok (.setCutoff (dataOf w))
  | 0x41#8 => .ok (.setResonance (dataOf w))
  | 0x42#8 => .ok (.setFilterMode (dataOf w))
  | 0x43#8 => .ok (.setFilterBypass (dataOf w))
  | 0x48#8 => .ok (.setShaper (selOf w) (dataOf w))
  | 0x49#8 => .ok (.setGain (dataOf w))
  | 0x50#8 => .ok (.setBpm (dataOf w))
  | 0x51#8 => .ok (.setDivision (dataOf w))
  | 0x52#8 => .ok .extClock
  | 0x53#8 => .ok .extStart
  | 0x54#8 => .ok .extStop
  | 0x55#8 => .ok (.setMidiSync (dataOf w))
  | 0x56#8 => .ok .clockPoll
  | 0x60#8 => .ok .seqStart
  | 0x61#8 => .ok .seqStop
  | 0x62#8 => .ok (.seqSelect (selOf w))
  | 0x63#8 => .ok (.setPlayMode (dataOf w))
  | 0x64#8 => .ok (.setBankMode (dataOf w))
  | 0x65#8 => .ok (.seqWrite (selOf w) (seqFieldOf (addrOf w)) (seqSubOf (addrOf w)) (stepOf (addrOf w)) (dataOf w))
  | 0x66#8 => .ok (.seqSetParam (selOf w) (addrOf w) (dataOf w))
  | 0x6C#8 => .ok (.seqCopy (selOf w) (addrOf w))
  | 0x6D#8 => .ok (.seqClear (selOf w))
  | 0x6E#8 => .ok (.seqEdit (stepOf (addrOf w)) (dataOf w))
  | 0x70#8 => .ok (.arpEnable (dataOf w))
  | 0x73#8 => .ok (.setArpDir (dataOf w))
  | 0x74#8 => .ok (.setArpStepMode (dataOf w))
  | 0x75#8 => .ok (.setArpOctRange (dataOf w))
  | 0x76#8 => .ok (.setArpNoteDur (dataOf w))
  | 0x77#8 => .ok (.setArpSource (dataOf w))
  | 0x78#8 => .ok (.setArpMono (dataOf w))
  | 0x80#8 => .ok (.keyOn (addrOf w) (dataOf w))
  | 0x81#8 => .ok (.keyOff (addrOf w))
  | 0x82#8 => .ok (.setVoiceMode (dataOf w))
  | 0x83#8 => .ok (.setUnison (dataOf w))
  | 0x84#8 => .ok (.setUnisonSpread (dataOf w))
  | 0x85#8 => .ok (.setPortamento (dataOf w))
  | 0x86#8 => .ok (.setVoice (selOf w) (dataOf w))
  | op => .error (.illegalOp op)

/-! ## Encoding -/

/-- The command word an assembler writes for an operation: unread fields zero (30_encoding R101, R102, R103). -/
def encode : Instr → CmdWord
  | .nop => packWord 0x00#8 0#8 0#16 0#32
  | .audioTick => packWord 0x01#8 0#8 0#16 0#32
  | .lfoTick => packWord 0x02#8 0#8 0#16 0#32
  | .envTick => packWord 0x03#8 0#8 0#16 0#32
  | .clockTick => packWord 0x04#8 0#8 0#16 0#32
  | .reset => packWord 0x05#8 0#8 0#16 0#32
  | .loadMute data => packWord 0x06#8 0#8 0#16 data
  | .setMasterVol data => packWord 0x07#8 0#8 0#16 data
  | .clrStatus data => packWord 0x08#8 0#8 0#16 data
  | .reportStoreErr => packWord 0x09#8 0#8 0#16 0#32
  | .setBitmunch data => packWord 0x0A#8 0#8 0#16 data
  | .outboxDrain => packWord 0x0B#8 0#8 0#16 0#32
  | .setWave sel data => packWord 0x10#8 sel 0#16 data
  | .setOctave sel data => packWord 0x11#8 sel 0#16 data
  | .setVolume sel data => packWord 0x12#8 sel 0#16 data
  | .setDetune sel data => packWord 0x13#8 sel 0#16 data
  | .setPw data => packWord 0x14#8 0#8 0#16 data
  | .writeWavetable sel addr data => packWord 0x15#8 sel addr data
  | .setAttack data => packWord 0x20#8 0#8 0#16 data
  | .setDecay data => packWord 0x21#8 0#8 0#16 data
  | .setSustain data => packWord 0x22#8 0#8 0#16 data
  | .setRelease data => packWord 0x23#8 0#8 0#16 data
  | .envTrigger data => packWord 0x24#8 0#8 0#16 data
  | .envRelease => packWord 0x25#8 0#8 0#16 0#32
  | .setLfoShape data => packWord 0x30#8 0#8 0#16 data
  | .setLfoRate data => packWord 0x31#8 0#8 0#16 data
  | .setLfoRange data => packWord 0x32#8 0#8 0#16 data
  | .setLfoRetrig data => packWord 0x33#8 0#8 0#16 data
  | .setLfoSync data => packWord 0x34#8 0#8 0#16 data
  | .lfoSyncReset => packWord 0x35#8 0#8 0#16 0#32
  | .setMod sel data => packWord 0x36#8 sel 0#16 data
  | .setCutoff data => packWord 0x40#8 0#8 0#16 data
  | .setResonance data => packWord 0x41#8 0#8 0#16 data
  | .setFilterMode data => packWord 0x42#8 0#8 0#16 data
  | .setFilterBypass data => packWord 0x43#8 0#8 0#16 data
  | .setShaper sel data => packWord 0x48#8 sel 0#16 data
  | .setGain data => packWord 0x49#8 0#8 0#16 data
  | .setBpm data => packWord 0x50#8 0#8 0#16 data
  | .setDivision data => packWord 0x51#8 0#8 0#16 data
  | .extClock => packWord 0x52#8 0#8 0#16 0#32
  | .extStart => packWord 0x53#8 0#8 0#16 0#32
  | .extStop => packWord 0x54#8 0#8 0#16 0#32
  | .setMidiSync data => packWord 0x55#8 0#8 0#16 data
  | .clockPoll => packWord 0x56#8 0#8 0#16 0#32
  | .seqStart => packWord 0x60#8 0#8 0#16 0#32
  | .seqStop => packWord 0x61#8 0#8 0#16 0#32
  | .seqSelect sel => packWord 0x62#8 sel 0#16 0#32
  | .setPlayMode data => packWord 0x63#8 0#8 0#16 data
  | .setBankMode data => packWord 0x64#8 0#8 0#16 data
  | .seqWrite sel field sub step data => packWord 0x65#8 sel (packSeqAddr field sub step) data
  | .seqSetParam sel addr data => packWord 0x66#8 sel addr data
  | .seqCopy sel addr => packWord 0x6C#8 sel addr 0#32
  | .seqClear sel => packWord 0x6D#8 sel 0#16 0#32
  | .seqEdit step data => packWord 0x6E#8 0#8 (packSeqAddr 0#4 0#4 step) data
  | .arpEnable data => packWord 0x70#8 0#8 0#16 data
  | .setArpDir data => packWord 0x73#8 0#8 0#16 data
  | .setArpStepMode data => packWord 0x74#8 0#8 0#16 data
  | .setArpOctRange data => packWord 0x75#8 0#8 0#16 data
  | .setArpNoteDur data => packWord 0x76#8 0#8 0#16 data
  | .setArpSource data => packWord 0x77#8 0#8 0#16 data
  | .setArpMono data => packWord 0x78#8 0#8 0#16 data
  | .keyOn addr data => packWord 0x80#8 0#8 addr data
  | .keyOff addr => packWord 0x81#8 0#8 addr 0#32
  | .setVoiceMode data => packWord 0x82#8 0#8 0#16 data
  | .setUnison data => packWord 0x83#8 0#8 0#16 data
  | .setUnisonSpread data => packWord 0x84#8 0#8 0#16 data
  | .setPortamento data => packWord 0x85#8 0#8 0#16 data
  | .setVoice sel data => packWord 0x86#8 sel 0#16 data

/-- The operation the decoder reads from the low `nbits` bits of `w`; every higher bit of the word is zero. A command
word is one 64-bit word, so bit 0 is its least significant bit (30_encoding R101). -/
def decodeTableWord (nbits w : Nat) : Option Instr :=
  match decode (BitVec.ofNat 64 (w % 2 ^ nbits)) with
  | .ok i => some i
  | .error _ => none

end Sys2Proof
end

