-- ==== Sys2Proof/Machine/Ports.lean ====
section
/-! DEFINITION. How an operation comes to be executed: the request ports' latches, the command port and the priority
among waiting requests (spec 30_encoding R100, R101, R107; 60_exceptions R415, R416, R418; log 1 to 4). The block has no
program counter (10_state R26): this is its "fetch". -/

namespace Sys2Proof.Machine

/-! ## What arrives -/

/-- A pulse on LFO_REQ, ENV_REQ or CLK_REQ sets the port's latch; where the latch is still set the pulse is lost
(60_exceptions R418). The latches are kept in the order their pulses arrived. -/
def latch (q : Strobe) (pulsed : Bool) (waiting : List Strobe) : List Strobe :=
  if pulsed && !decide (q ∈ waiting) then waiting ++ [q] else waiting

/-- The machine after one instant: NOW reads the event's time, the pulsed ports are latched, LFO before ENV before CLK
(60_exceptions R416), and a command word stands last in line (log 3, 4). -/
def acceptEvent (s : State) (e : PortEvent) : State :=
  (s.withPorts { s.ports with
    audioReq := s.ports.audioReq || e.audio
    strobes := latch .clk e.clk (latch .env e.env (latch .lfo e.lfo s.ports.strobes)) }).withInputs
    { s.inputs with now := e.now, cmdQueue := s.inputs.cmdQueue ++ e.cmd.toList }

/-- The machine after what the platform does before this operation starts (log 2). -/
def accept (s : State) : State :=
  match s.inputs.arrivals with
  | batch :: rest => batch.foldl acceptEvent (s.withInputs { s.inputs with arrivals := rest })
  | [] => s

/-! ## What is served -/

/-- The command word a request port stands for (30_encoding R101, R107). -/
def requestWord : Strobe → CmdWord
  | .lfo => packWord 0x02#8 0#8 0#16 0#32
  | .env => packWord 0x03#8 0#8 0#16 0#32
  | .clk => packWord 0x04#8 0#8 0#16 0#32

/-- The command word AUDIO_REQ stands for (30_encoding R101, R107). -/
def audioRequestWord : CmdWord := packWord 0x01#8 0#8 0#16 0#32

/-- The request served next and the machine once it is taken: AUDIO_REQ, then the oldest of LFO_REQ, ENV_REQ and CLK_REQ,
then CMD (60_exceptions R416); nothing where no request waits. CMD_READY tells that a command is executed (log 4). -/
def arbitrate (s : State) : Option (CmdWord × State) :=
  if s.ports.audioReq then
    some (audioRequestWord, s.withPorts { s.ports with audioReq := false, cmdReady := false })
  else
    match s.ports.strobes with
    | q :: rest => some (requestWord q, s.withPorts { s.ports with strobes := rest, cmdReady := false })
    | [] =>
      match s.inputs.cmdQueue with
      | w :: rest =>
        some (w, (s.withInputs { s.inputs with cmdQueue := rest }).withPorts { s.ports with cmdReady := true })
      | [] => none

/-- The machine after a step in which no request waited. -/
def idled (s : State) : State := s.withPorts { s.ports with cmdReady := false }

/-- The machine with a command word next in line on CMD, no request waiting and nothing arriving before it. -/
def State.present (s : State) (w : CmdWord) : State :=
  (s.withPorts { s.ports with audioReq := false, strobes := [] }).withInputs
    { s.inputs with cmdQueue := w :: s.inputs.cmdQueue, arrivals := [] :: s.inputs.arrivals }

end Sys2Proof.Machine
end

