-- ==== Sys2Proof/Machine/Step.lean ====
section
/-! DEFINITION. One step: what the platform does arrives, the request of highest priority is taken, its command word is
decoded and its operation executed to completion (spec 20_memory R85, 60_exceptions R415, R416). -/

namespace Sys2Proof.Machine

/-- Execute one command word: the operation it decodes to, or the recovery of an undefined operation code (spec
30_encoding R109). -/
def runWord (w : CmdWord) (s : State) : Result :=
  match decode w with
  | .ok i => exec i s
  | .error _ => done (takeIllegalCommand s)

/-- The block's step as 10_state R57 has it: the configuration, the time, the draws and the command word are passed to
it, and the block stores none of them. The answer holds the next block and the inputs not yet consumed. -/
def operate (p : Params) (x : Inputs) (w : CmdWord) (b : Block) : Result :=
  runWord w { toBlock := b, params := p, inputs := x }

/-- One step of the machine: what the platform does arrives, the request of highest priority is taken, and the block
executes its word on the inputs of this instant. Where no request waits nothing happens but the passing of time (log 2). -/
def step (s : State) : Host.Outcome State Fault Refusal :=
  match arbitrate (accept s) with
  | some (w, t) => operate t.params t.inputs w t.toBlock
  | none => done (idled (accept s))

/-- `s` with the word `w` next in line on CMD, so that the next step executes it (log 1). -/
def State.withFetchWord (s : State) (nbits w : Nat) : State := s.present (BitVec.ofNat 64 (w % 2 ^ nbits))

end Sys2Proof.Machine
end

