-- ==== Sys2Proof/Safety.lean ====
section
/-! DEFINITION. What a legal state is: the invariants of spec 10_state R55 with the range every rule of 10_state gives a
field, and the terms the statements use (frames, spec-side formulas). Each part is an abbreviation of a decidable
proposition, so that a test can evaluate it. -/

namespace Sys2Proof.Machine

/-! ## Operation codes -/

/-- The operation codes 30_encoding R102 lists; every other one is undefined (R109). -/
def legalOps : List OpField :=
  [0x00#8, 0x01#8, 0x02#8, 0x03#8, 0x04#8, 0x05#8, 0x06#8, 0x07#8, 0x08#8, 0x09#8, 0x0A#8, 0x0B#8,
    0x10#8, 0x11#8, 0x12#8, 0x13#8, 0x14#8, 0x15#8, 0x20#8, 0x21#8, 0x22#8, 0x23#8, 0x24#8, 0x25#8,
    0x30#8, 0x31#8, 0x32#8, 0x33#8, 0x34#8, 0x35#8, 0x36#8, 0x40#8, 0x41#8, 0x42#8, 0x43#8, 0x48#8,
    0x49#8, 0x50#8, 0x51#8, 0x52#8, 0x53#8, 0x54#8, 0x55#8, 0x56#8, 0x60#8, 0x61#8, 0x62#8, 0x63#8,
    0x64#8, 0x65#8, 0x66#8, 0x6C#8, 0x6D#8, 0x6E#8, 0x70#8, 0x73#8, 0x74#8, 0x75#8, 0x76#8, 0x77#8,
    0x78#8, 0x80#8, 0x81#8, 0x82#8, 0x83#8, 0x84#8, 0x85#8, 0x86#8]

/-! ## Ranges -/

/-- A gain word, amplitude, volume, depth or pulse width: 0..1023. -/
abbrev IsGain (x : Int) : Prop := 0 ≤ x ∧ x ≤ 1023

/-- A sample or a table index: 0..4095. -/
abbrev IsSample (x : Int) : Prop := 0 ≤ x ∧ x ≤ 4095

/-- A phase increment: 0..INC_MAX (R22). -/
abbrev IsInc (p : Params) (x : Int) : Prop := 0 ≤ x ∧ x ≤ p.incMax

/-- A velocity: 0..127. -/
abbrev IsVel (x : Int) : Prop := 0 ≤ x ∧ x ≤ 127

/-- A note in NOTE_MIN..NOTE_MAX (49_voice_allocator R371). -/
abbrev IsNote (p : Params) (n : Note) : Prop := p.noteMin ≤ n ∧ n ≤ p.noteMax

/-- `none`, or a note in range. -/
abbrev OptNote (p : Params) (x : Option Note) : Prop := ∀ n ∈ x, IsNote p n

/-- A signed 32-bit register. -/
abbrev IsWord32 (x : Int) : Prop := -2147483648 ≤ x ∧ x ≤ 2147483647

/-- `none`, or a pulse of the measure. -/
abbrev OptPulse (m : Nat) (x : Option Nat) : Prop := ∀ k ∈ x, k < m

/-! ## The parts of a legal state -/

/-- R21, R22, R23. -/
abbrev OscOk (p : Params) (x : Osc) : Prop :=
  (0 ≤ x.phase ∧ x.phase < p.cycle) ∧ IsInc p x.inc ∧ IsInc p x.lastTgt ∧ IsInc p x.portaFrom

/-- R24. -/
abbrev VoiceOk (p : Params) (x : Voice) : Prop := OptNote p x.note ∧ OptNote p x.key

/-- No two voices hold the same key (R24, R55). -/
abbrev KeysDistinct (v : Vector Voice 4) : Prop := ∀ i j : Fin 4, i ≠ j → v[i].key = none ∨ v[i].key ≠ v[j].key

/-- R27. -/
abbrev EngineOk (p : Params) (x : Engine) : Prop :=
  (p.octMin ≤ x.octave ∧ x.octave ≤ p.octMax) ∧ IsGain x.volume ∧
    (-p.detuneMax ≤ x.detune ∧ x.detune ≤ p.detuneMax)

/-- R28. -/
abbrev PwOk (x : PulseWidth) : Prop := IsGain x.knob ∧ IsGain x.eff ∧ (0 ≤ x.edge ∧ x.edge < 600)

/-- R29. -/
abbrev MixerOk (p : Params) (x : Mixer) : Prop :=
  x.bitMunch ≤ p.bitMunchMax ∧ IsGain x.loadRamp ∧ IsGain x.masterVol

/-- R31, R32. -/
abbrev EnvOk (x : Envelope) : Prop :=
  IsGain x.amp ∧ IsGain x.start ∧ IsVel x.pendVel ∧ IsGain x.sustain ∧
    x.attack < 2 ^ 32 ∧ x.decay < 2 ^ 32 ∧ x.release < 2 ^ 32

/-- R33. -/
abbrev EnvModOk (x : EnvMod) : Prop :=
  (∀ e : Fin 2, 0 ≤ x.pitch[e]) ∧ (0 ≤ x.cut ∧ x.cut ≤ 255) ∧ 0 ≤ x.rate

/-- R34. -/
abbrev LfoModOk (x : LfoMod) : Prop := IsGain x.ampMod

/-- R35. -/
abbrev VelModOk (x : VelMod) : Prop :=
  (∀ e : Fin 2, 0 ≤ x.pitch[e]) ∧ (0 ≤ x.cut ∧ x.cut ≤ 255) ∧ IsGain x.amp ∧ IsGain x.pw ∧ 0 ≤ x.rate

/-- R36. -/
abbrev MatrixOk (x : Vector Int 17) : Prop := ∀ k : Fin 17, IsGain x[k]

/-- R37, R38. -/
abbrev LfoOk (p : Params) (x : Lfo) : Prop :=
  x.index < 600 ∧ x.counter < 2 ^ 32 ∧ IsSample x.val ∧ x.eighthSync ≤ 15 ∧
    (p.lfoTicksMin ≤ x.rate ∧ x.rate ≤ p.lfoTicksMax) ∧ x.range ≤ 3

/-- R39. -/
abbrev UiOk (p : Params) (x : Ui) : Prop :=
  x.uiCounter < p.uiRefreshDiv ∧ x.arrowCounter < p.arrowDiv ∧ x.blinkCounter < p.blinkDiv ∧ x.arrowFrame ≤ 255

/-- R40, R41. -/
abbrev FilterOk (p : Params) (x : Filter) : Prop :=
  IsWord32 x.lp0 ∧ IsWord32 x.lp1 ∧ (0 ≤ x.cutEff ∧ x.cutEff ≤ p.coefMax) ∧ (0 ≤ x.fb ∧ x.fb ≤ 2 * p.coefMax) ∧
    (0 ≤ x.cutoff ∧ x.cutoff ≤ p.coefMax) ∧ (0 ≤ x.resonance ∧ x.resonance ≤ p.coefMax)

/-- R42. -/
abbrev ShapeOk (p : Params) (x : ShapeParams) : Prop :=
  x.shaperType < p.nShaperType ∧ IsGain x.shaperAmount ∧ IsGain x.gainAmount

/-- R43; the list of held keys holds no key twice (49_voice_allocator R386). -/
abbrev AllocOk (p : Params) (x : Alloc) : Prop :=
  x.unisonCount ≤ 3 ∧ (0 ≤ x.unisonSpread ∧ x.unisonSpread ≤ p.spreadMax) ∧
    (∀ v : Fin 4, 0 ≤ x.unisonOff[v] ∧ x.unisonOff[v] ≤ 3 * p.spreadMax) ∧ x.portaTime < 2 ^ 32 ∧
    x.held.length ≤ p.heldCap ∧ (∀ n ∈ x.held, IsNote p n) ∧ x.held.Nodup

/-- R44, R45; the period is the one of the tempo (46_clock R271). -/
abbrev ClockOk (p : Params) (x : Clock) : Prop :=
  x.pulse < 2 * x.div ∧ x.eighth < 2 ^ 32 ∧ (∃ k : Fin 4, x.div = p.divTable[k]) ∧
    x.swingOffset ≤ x.div / 2 ∧ (20 ≤ x.bpm ∧ x.bpm ≤ 320) ∧ x.periodUs = 60000000 / (x.bpm * 96) ∧
    x.outClockPhase < 24 ∧ x.divSel ≤ 3

/-- R46. -/
abbrev ExtOk (x : ExtSync) : Prop :=
  x.extPulse ≤ 11 ∧ (∀ i : Fin 24, x.bpmBuf[i] ≤ 65535) ∧ x.bpmBufCount ≤ 24

/-- R47, for a measure of `m` pulses and a current sequence of `len` steps. -/
abbrev SeqOk (m len : Nat) (x : Transport) : Prop :=
  x.step < len ∧ OptPulse m x.pendRel ∧ (x.dir = 1 ∨ x.dir = -1) ∧ (1 ≤ x.mag ∧ x.mag ≤ 15)

/-- 20_memory R79. -/
abbrev SequenceOk (p : Params) (x : Sequence) : Prop :=
  (∀ (v : Fin 4) (t : Fin 16), OptNote p x.notes[v][t]) ∧ (∀ t : Fin 16, IsVel x.vel[t]) ∧
    (∀ c : Fin 4, x.ccNum[c] ≤ 127) ∧ (∀ (c : Fin 4) (t : Fin 16), x.ccVal[c][t] ≤ 127) ∧
    x.noteDuration ≤ 1023 ∧ x.divSelection ≤ 3 ∧ (1 ≤ x.patternLength ∧ x.patternLength ≤ 16) ∧
    (-48 ≤ x.transpose ∧ x.transpose ≤ 48) ∧ x.swing ≤ p.swingMax ∧ (20 ≤ x.bpm ∧ x.bpm ≤ 320)

/-- R49, R50, for a measure of `m` pulses; the raw list holds no note twice and its length is tracked (48_arpeggiator
R351, R352). -/
abbrev ArpOk (p : Params) (m : Nat) (x : Arp) : Prop :=
  (x.raw.length ≤ 10 ∧ (∀ n ∈ x.raw, IsNote p n) ∧ x.raw.Nodup) ∧ (x.sorted.length ≤ 10 ∧ ∀ n ∈ x.sorted, IsNote p n) ∧
    x.len = x.raw.length ∧ x.pos ≤ 9 ∧ x.oct ≤ x.octRange ∧ OptPulse m x.pendRel ∧ OptNote p x.note ∧ IsVel x.vel ∧
    x.octRange ≤ 3 ∧ (1 ≤ x.dur ∧ x.dur ≤ 95)

/-- R51. -/
abbrev OutboxOk (p : Params) (x : Outbox) : Prop :=
  (∀ e ∈ x.arpOn, IsNote p e.1 ∧ IsVel e.2) ∧ OptNote p x.arpOff ∧
    (∀ b ∈ x.seqOn, (∀ v : Fin 4, OptNote p b.notes[v]) ∧ IsVel b.vel) ∧
    (∀ b ∈ x.seqOff, ∀ v : Fin 4, OptNote p b[v]) ∧ x.clock ≤ 255 ∧ (∀ v : Fin 4, OptNote p x.seqNotes[v])

/-- 20_memory: the table memories are in canonical form and every Sequence record is in range. -/
abbrev MemOk (p : Params) (x : Memory) : Prop := x.wf = true ∧ ∀ q : Fin 8, SequenceOk p x.seq[q]

/-- No request port has two pulses waiting (60_exceptions R418). -/
abbrev PortsOk (x : Ports) : Prop := x.strobes.Nodup

/-- The legal states: the invariants of R55 and every field inside the range its rule states, under a legal
configuration. -/
structure Inv (s : State) : Prop where
  params : s.params.Legal
  osc : ∀ o : Fin 8, OscOk s.params s.osc[o]
  voices : ∀ v : Fin 4, VoiceOk s.params s.voices[v]
  keys : KeysDistinct s.voices
  engines : ∀ e : Fin 2, EngineOk s.params s.engines[e]
  pw : PwOk s.pw
  mixer : MixerOk s.params s.mixer
  env : EnvOk s.env
  envMod : EnvModOk s.envMod
  lfo : LfoOk s.params s.lfo
  lfoMod : LfoModOk s.lfoMod
  qVel : VelModOk s.qVel
  vel : VelModOk s.vel
  matrix : MatrixOk s.matrix
  ui : UiOk s.params s.ui
  filter : FilterOk s.params s.filter
  shape : ShapeOk s.params s.shape
  alloc : AllocOk s.params s.alloc
  clock : ClockOk s.params s.clock
  ext : ExtOk s.ext
  seq : SeqOk (measure s) (currentSeq s).patternLength s.seq
  arp : ArpOk s.params (measure s) s.arp
  outbox : OutboxOk s.params s.outbox
  mem : MemOk s.params s.mem
  ports : PortsOk s.ports

/-! ## Terms the statements use -/

/-- The DATA operand read unsigned, `zext_32(DATA)` (30_encoding R104). -/
abbrev uData (data : DataField) : Int := (data.toNat : Int)

/-- An integer brought into a range (00_scope R12). -/
abbrev within (lo hi v : Int) : Int := if v < lo then lo else if hi < v then hi else v

/-- A sample's distance from the centre scaled by a gain word in 1/1024ths, floored (00_scope R12). -/
abbrev scaled (x g : Int) : Int := 2048 + (x - 2048) * g / 1024

/-- The bits of a command word that its operation reads: OP, and the columns of 30_encoding R102 that carry a field. -/
def readMask (op : OpField) : CmdWord :=
  let sel := [0x10#8, 0x11#8, 0x12#8, 0x13#8, 0x15#8, 0x36#8, 0x48#8, 0x62#8, 0x65#8, 0x66#8, 0x6C#8, 0x6D#8, 0x86#8]
  let addr := [0x15#8, 0x66#8, 0x6C#8, 0x80#8, 0x81#8]
  let noData := [0x00#8, 0x01#8, 0x02#8, 0x03#8, 0x04#8, 0x05#8, 0x09#8, 0x0B#8, 0x25#8, 0x35#8, 0x52#8, 0x53#8, 0x54#8,
    0x56#8, 0x60#8, 0x61#8, 0x62#8, 0x6C#8, 0x6D#8, 0x81#8]
  packWord 0xFF#8 (if op ∈ sel then 0xFF#8 else 0#8)
    (if op ∈ addr then 0xFFFF#16 else if op = 0x65#8 then 0x0FFF#16 else if op = 0x6E#8 then 0x000F#16 else 0#16)
    (if op ∈ noData then 0#32 else 0xFFFFFFFF#32)

/-- The sample oscillator o gives in a state (40_oscillator_bank R124): the entry of its engine's wavetable at the
phase's integer part, or the silence value. -/
def SoundsSample (s : State) (o : Fin 8) (x : Int) : Prop :=
  if s.voices[voiceOf o].sounding then
    ∃ u, wtRead s.engines[engineOf o].wave (s.osc[o].phase / 2 ^ s.params.fracBits) s = some (x, u)
  else x = 2048

/-- Every lookup table holds what its parameter asks for (20_memory R77, R78, R80; 45_waveshaper_gain R257, R261). -/
structure TablesMatch (s : State) : Prop where
  vol : ∀ (e : Fin 2) (x : Nat), x < 4096 →
    s.mem.read (.vol e) x = BitVec.ofInt 12 (scaled (x : Int) s.engines[e].volume)
  shaper : ∀ x : Nat, x < 4096 →
    s.mem.read .shaper x = shaperEntry s.params s.shape.shaperType s.shape.shaperAmount x
  gain : ∀ x : Nat, x < 4096 →
    s.mem.read .gain x =
      BitVec.ofInt 12 (within 0 4095 (2048 + ((x : Int) - 2048) * (1024 + s.params.gainSlope * s.shape.gainAmount) / 1024))

/-- Which operations may store into a table memory: WRITE_WAVETABLE, SET_VOLUME, SET_SHAPER, SET_GAIN each into its own
kind of table, RESET into all. -/
def mayStore (i : Instr) (T : Space) : Bool :=
  match i with
  | .reset => true
  | .writeWavetable _ _ _ => (T matches .user _)
  | .setVolume _ _ => (T matches .vol _)
  | .setShaper _ _ => (T matches .shaper)
  | .setGain _ => (T matches .gain)
  | _ => false

/-- Which operations may change a Sequence record: the four editing operations, a captured KEY_ON, and RESET. -/
def mayEdit (i : Instr) : Bool :=
  match i with
  | .reset => true
  | .seqWrite _ _ _ _ _ => true
  | .seqSetParam _ _ _ => true
  | .seqCopy _ _ => true
  | .seqClear _ => true
  | .keyOn _ _ => true
  | _ => false

/-- The end of an evaluation of the envelope outside Idle (42_envelope R188). -/
abbrev evaluated (s : State) : State := deriveIncrements (updateFilterCoef (envOutputs s))

/-- `t` is `s` after the entry into Attack (42_envelope R187): the trigger is no longer pending, the amplitude is the
start level, marked voices are silent and no voice is marked, the queued velocity modulation is the active one, the LFO
restarts where it is set to, and outputs, coefficients, pulse width and increments are derived afresh. -/
def EntersAttack (s t : State) : Prop :=
  ∃ voices : Vector Voice 4,
    (∀ v : Fin 4, voices[v] =
      { s.voices[v] with
        sounding := if s.voices[v].muteOnTrig then false else s.voices[v].sounding
        muteOnTrig := false }) ∧
    t = deriveIncrements (updatePulseWidth (updateFilterCoef (envOutputs
      ((((s.withEnv { s.env with trigPending := false, start := s.env.amp, stage := .attack, t0 := s.inputs.now }).withVoices
        voices).withVel s.qVel).withLfo
          (if s.lfo.retrig then { s.lfo with index := 0, counter := 0 } else s.lfo)))))

/-- `t` is `s` after one call of a pending trigger (42_envelope R186): one step of the click-avoidance fade, or the
entry into Attack. -/
def TriggerStepped (s t : State) : Prop :=
  if s.params.envClickThresh < s.env.amp then t = s.withEnv { s.env with amp := s.env.amp - s.params.envClickStep }
  else EntersAttack s t

/-- `t` is `s` after the envelope was triggered at a velocity (42_envelope R185). -/
def Triggered (vel : Int) (s t : State) : Prop :=
  TriggerStepped
    ((queueVelocity (s.withEnv { s.env with pendVel := vel })).withEnv
      { s.env with pendVel := vel, trigPending := true }) t

/-- `t` is `s` after the envelope was released (42_envelope R192). -/
def Released (s t : State) : Prop :=
  t = s.withEnv
    (if s.env.stage ≠ .idle ∧ (s.env.stage ≠ .release ∨ s.env.trigPending = true) then
      { s.env with trigPending := false, start := s.env.amp, t0 := s.inputs.now, stage := .release }
    else { s.env with trigPending := false })

/-- `t` is `s` after voice v was given note n (49_voice_allocator R374): its two oscillators glide from their last
targets, the voice sounds unmarked, and the increments are derived. -/
def NoteGiven (v : Fin 4) (n : Note) (s t : State) : Prop :=
  ∃ (osc : Vector Osc 8) (voices : Vector Voice 4),
    (∀ o : Fin 8, osc[o] =
      { s.osc[o] with portaFrom := if o.val % 4 = v.val then s.osc[o].lastTgt else s.osc[o].portaFrom }) ∧
    (∀ u : Fin 4, voices[u] =
      if u = v then
        { s.voices[u] with
          note := some n, sounding := true, muteOnTrig := false, portaT0 := s.inputs.now, gliding := true }
      else s.voices[u]) ∧
    t = deriveIncrements ((s.withOsc osc).withVoices voices)

/-- `s` after voice v was given a note or `none` (49_voice_allocator R374) and, for `none`, marked as muted on the next
trigger: what a sequencer step, a mono assignment and a mono arpeggio do to one voice (47_sequencer R311, 48_arpeggiator
R355, 49_voice_allocator R387). -/
def noteOrMute (v : Fin 4) (x : Option Note) (s : State) : State :=
  let m := setNote v x s
  if x = none then m.withVoices (m.voices.set v { m.voices[v] with muteOnTrig := true }) else m

/-- `s` after note n was given to voice 0 and the unison voices, in the order of the voices, the others being muted
(48_arpeggiator R355, 49_voice_allocator R387). -/
def unisonGiven (n : Note) (s : State) : State :=
  let x := fun v : Fin 4 => if v.val ≤ s.alloc.unisonCount then some n else none
  noteOrMute 3 (x 3) (noteOrMute 2 (x 2) (noteOrMute 1 (x 1) (noteOrMute 0 (x 0) s)))

/-- `t` is `s` after the sounding step was released (47_sequencer R315). -/
def StepReleased (s t : State) : Prop :=
  ∃ m, Released (s.withSeq { s.seq with pendRel := none }) m ∧
    t = if ∃ v : Fin 4, s.outbox.seqNotes[v] ≠ none then
        m.withOutbox { s.outbox with seqOff := some s.outbox.seqNotes, seqNotes := Vector.replicate 4 none }
      else m

/-- `t` is `s` after the sounding arpeggio note was released (48_arpeggiator R357). -/
def ArpReleased (s t : State) : Prop :=
  ∃ m, Released (s.withArp { s.arp with pendRel := none }) m ∧
    match s.arp.note with
    | some p => t = (m.withOutbox { s.outbox with arpOff := some p }).withArp { s.arp with pendRel := none, note := none }
    | none => t = m

/-- The clock and the pending releases for a division of `d` pulses (46_clock R272, 47_sequencer R318). -/
abbrev dividedBy (d : Nat) (s : State) : State :=
  ((s.withClock
    { s.clock with
      div := d
      pulse := s.clock.pulse % (2 * d)
      swingOffset := s.mem.seq[s.seq.cur].swing * (d / 2) / s.params.swingMax }).withSeq
    { s.seq with pendRel := s.seq.pendRel.map (· % (2 * d)) }).withArp
    { s.arp with pendRel := s.arp.pendRel.map (· % (2 * d)) }

/-- The division and, unless an external clock is followed, the tempo of the current sequence (47_sequencer R301). -/
abbrev sequenceTempo (s : State) : State :=
  let S := s.mem.seq[s.seq.cur]
  let m := dividedBy (s.params.divTable.toList.getD S.divSelection s.params.divTable[3]) s
  if s.clock.receivingClock then m
  else m.withClock { m.clock with bpm := S.bpm, periodUs := 60000000 / (S.bpm * 96) }

end Sys2Proof.Machine
end

