-- ==== Sys2Proof/Certificates/Slice0/Obligations.lean ====
section
/-! DEFINITION. The statements for the provers, each a proposition about the model with the spec's arithmetic written
out. A statement that gives an operation's next state gives the whole of it: what it does not name is unchanged. The
parameters are the state's own (`params`), so that a statement holds for every configuration (log 8); where a rule writes
a parameter's default as a number, the statement gives the default's value first. -/

open Sys2Proof Sys2Proof.Machine

/-! ## Reset -/

/-- R442. -/
def Obligations.ResetRegistersHoldListedValues : Prop :=
  (∀ o : Fin 8, State.reset.osc[o] = { phase := 0, inc := 0, lastTgt := 0, tgtValid := false, portaFrom := 0 }) ∧
  (∀ v : Fin 4, State.reset.voices[v] =
    { note := none, sounding := false, muteOnTrig := false, key := none, portaT0 := 0, gliding := false }) ∧
  (∀ e : Fin 2, State.reset.engines[e] = { wave := .sine, octave := 0, volume := 1023, detune := 0 }) ∧
  State.reset.pw = { knob := 512, eff := 512, edge := 300 } ∧
  State.reset.mixer =
    { bitMunch := 0, loadMute := false, loadRamp := 1023, masterVol := 1023, outL := 2048, outR := 2048 } ∧
  State.reset.env =
    { stage := .idle, amp := 0, t0 := 0, start := 0, trigPending := false, pendVel := 127, attack := 0, decay := 0
      sustain := 1023, release := 0 } ∧
  State.reset.envMod = { pitch := #v[0, 0], cut := 0, rate := 0 } ∧
  State.reset.lfo =
    { index := 0, counter := 0, val := 2048, eighthSync := 0, shape := .sine, rate := 37, range := 0, retrig := false
      sync := .free } ∧
  State.reset.lfoMod = { pitch := #v[0, 0], cut := 0, ampMod := 0, pw := 0, oct := #v[0, 0] } ∧
  State.reset.ui =
    { uiCounter := 0, arrowCounter := 0, blinkCounter := 0, refreshDue := false, arrowFrame := 0, blinkOn := false } ∧
  State.reset.qVel = { pitch := #v[0, 0], cut := 0, amp := 1023, pw := 0, rate := 0 } ∧
  State.reset.vel = { pitch := #v[0, 0], cut := 0, amp := 1023, pw := 0, rate := 0 } ∧
  (∀ k : Fin 17, State.reset.matrix[k] = 0) ∧
  State.reset.filter =
    { lp0 := 0, lp1 := 0, cutEff := 255, fb := 0, cutoff := 255, resonance := 0, mode := .lowPass, bypass := false } ∧
  State.reset.shape = { shaperType := 0, shaperAmount := 0, gainAmount := 0 } ∧
  State.reset.alloc =
    { voiceMode := .paraphonic, unisonCount := 0, unisonSpread := 0, unisonOff := #v[0, 0, 0, 0], portaTime := 0
      held := [] } ∧
  State.reset.clock =
    { pulse := 0, eighth := 0, div := 12, swingOffset := 0, receivingClock := false, bpm := 120, periodUs := 5208
      outClockPhase := 0, beatLed := false, freeLatch := false, divSel := 2, midiClockOut := false
      extSyncEnable := true } ∧
  (State.reset.ext.lastExtTime = 0 ∧ State.reset.ext.extSeen = false ∧ State.reset.ext.extPulse = 0 ∧
    (∀ i : Fin 24, State.reset.ext.bpmBuf[i] = 0) ∧ State.reset.ext.bpmBufCount = 0 ∧
    State.reset.ext.bpmBufIdx = 0) ∧
  State.reset.seq =
    { running := false, step := 0, cur := 0, sel := 0, src := 0, dst := 0, playMode := .forward, bankMode := .none
      pendRel := none, dir := 1, mag := 1, edit := false, editStep := 0 } ∧
  State.reset.arp =
    { raw := [], sorted := [], len := 0, pos := 0, oct := 0, pendRel := none, fresh := true, back := false
      restart := false, note := none, vel := 100, on := false, dir := .forward, stepMode := .step1, octRange := 0
      dur := 6, source := .frontPanel, mono := false } ∧
  State.reset.outbox =
    { arpOn := none, arpOff := none, seqOn := none, seqOff := none, clock := 0
      seqNotes := #v[none, none, none, none] } ∧
  statusWord State.reset = 0

/-- R72, R73, R75, R444, and the entries R74 and R128 list; the configuration after reset is the default one of 00_scope
R9 and 43_lfo R212, by the model's choice of having the configuration in State (log 8). The first quarter of the sine is
listed; its symmetries give the rest, but for four entries where the rounding breaks one of them. That the draw of a noise
read is the word RND supplies next, and what is left of the words, is the model's choice (log 5). -/
def Obligations.ResetTablesHoldListedContents : Prop :=
  (sineTable.length = 600 ∧ sineTable.sum = 1228802 ∧
    sineTable.take 151 =
      [2048, 2069, 2091, 2112, 2134, 2155, 2177, 2198, 2219, 2241, 2262, 2283, 2305, 2326, 2347, 2368, 2389,
       2410, 2432, 2453, 2474, 2495, 2515, 2536, 2557, 2578, 2598, 2619, 2640, 2660, 2681, 2701, 2721, 2741,
       2762, 2782, 2802, 2821, 2841, 2861] ++
      [2881, 2900, 2920, 2939, 2958, 2977, 2996, 3015, 3034, 3053, 3072, 3090, 3108, 3127, 3145, 3163, 3181,
       3199, 3216, 3234, 3251, 3268, 3286, 3303, 3319, 3336, 3353, 3369, 3386, 3402, 3418, 3434, 3449, 3465,
       3480, 3495, 3511, 3525, 3540, 3555] ++
      [3569, 3583, 3598, 3611, 3625, 3639, 3652, 3665, 3678, 3691, 3704, 3717, 3729, 3741, 3753, 3765, 3776,
       3788, 3799, 3810, 3821, 3831, 3842, 3852, 3862, 3872, 3882, 3891, 3900, 3909, 3918, 3927, 3935, 3943,
       3951, 3959, 3967, 3974, 3981, 3988] ++
      [3995, 4001, 4008, 4014, 4020, 4025, 4031, 4036, 4041, 4046, 4050, 4055, 4059, 4063, 4066, 4070, 4073,
       4076, 4079, 4081, 4084, 4086, 4088, 4090, 4091, 4092, 4093, 4094, 4095, 4095, 4095] ∧
    (∀ i : Nat, i ≤ 300 → sineTable.getD (300 - i) 0 = sineTable.getD i 0) ∧
    ∀ i : Nat, 1 ≤ i → i < 600 → sineTable.getD (600 - i) 0 =
      (if i = 50 ∨ i = 250 ∨ i = 350 ∨ i = 550 then 4097 else 4096) - sineTable.getD i 0) ∧
  (State.reset.params = Params.standard ∧ Params.standard.incTable.sum = 3186505207 ∧
    Params.standard.cycle = 629145600 ∧ Params.standard.coefMax = 255 ∧
    Params.standard =
    { lfoTickHz := 22050, envTickHz := 22050, timeUnitUs := 1, fracBits := 20, incMax := 314572800
      noteRef := 60, noteMin := -60, noteMax := 67
      incTable :=
        [116639, 123574, 130923, 138708, 146956, 155694, 164952, 174761, 185152, 196162, 207827, 220185, 233277,
         247149, 261845, 277415, 293911, 311388, 329904, 349521, 370305, 392324, 415653, 440369, 466555, 494298,
         523690, 554830, 587822, 622776, 659808, 699043] ++
        [740610, 784649, 831306, 880738, 933110, 988595, 1047380, 1109661, 1175645, 1245552, 1319617, 1398085,
         1481220, 1569297, 1662613, 1761477, 1866220, 1977191, 2094761, 2219322, 2351289, 2491104, 2639233,
         2796170, 2962439, 3138595, 3325225, 3522954, 3732439, 3954382, 4189521, 4438643] ++
        [4702579, 4982209, 5278466, 5592340, 5924878, 6277190, 6650451, 7045907, 7464879, 7908763, 8379043,
         8877287, 9405158, 9964417, 10556933, 11184680, 11849756, 12554379, 13300902, 14091814, 14929757,
         15817527, 16758086, 17754574, 18810315, 19928835, 21113865, 22369361, 23699512, 25108759, 26601803,
         28183629] ++
        [29859514, 31635054, 33516172, 35509147, 37620631, 39857670, 42227730, 44738722, 47399025, 50217517,
         53203606, 56367257, 59719029, 63270107, 67032343, 71018294, 75241262, 79715340, 84455461, 89477444,
         94798049, 100435035, 106407212, 112734515, 119438058, 126540214, 134064687, 142036588, 150482523,
         159430680, 168910921, 178954887]
      octMin := -3, octMax := 3, detuneMax := 1048575, spreadMax := 1048575, bitMunchMax := 11, gainSlope := 3
      shaperGen := .listed, nShaperType := 4, loadRampStep := 1, envClickThresh := 10, envClickStep := 5
      fxShift := 8, fxUnity := 256, lfoTicksMin := 1, lfoTicksMax := 65535, uiRefreshDiv := 441
      arrowDiv := 2205, blinkDiv := 5512, heldCap := 10, divTable := #v[48, 24, 12, 6], swingMax := 1023
      seqDurMap := .identity, lfoPitchKnee := 512, lfoPitchBoost := 4, lfoPitchShift := 2, lfoCutShift := 13
      lfoAmpShift := 12, lfoPwShift := 11, lfoPwMinDepth := 8, lfoOctShift := 19, envCutShift := 12
      envRateShift := 10, velPitchMul := 8, velCutShift := 9, velPwShift := 7
      syncPulses := #v[48, 96, 192, 384, 768], syncEighths := #v[1, 2, 4, 8, 16] }) ∧
  (∀ (s : State) (i : Nat), i < 600 →
    wtRead .sine (i : Int) s = some (sineTable.getD i 0, s) ∧
    wtRead .triangle (i : Int) s =
      some (if i ≤ 300 then (i : Int) * 4095 / 300 else (600 - (i : Int)) * 4095 / 300, s) ∧
    wtRead .saw (i : Int) s = some ((i : Int) * 4096 / 600, s) ∧
    wtRead .square (i : Int) s = some (if (i : Int) < s.pw.edge then 4095 else 0, s) ∧
    wtRead .user1 (i : Int) s = some (((s.mem.read (.user 0) i).toNat : Int), s) ∧
    wtRead .user2 (i : Int) s = some (((s.mem.read (.user 1) i).toNat : Int), s) ∧
    wtRead .user3 (i : Int) s = some (((s.mem.read (.user 2) i).toNat : Int), s) ∧
    ∃ x : Int, 0 ≤ x ∧ x ≤ 4095 ∧ (∀ w rest, s.inputs.rnd = w :: rest → x = (w.toNat : Int)) ∧
      wtRead .noise (i : Int) s = some (x, s.withInputs
        { s.inputs with rnd := s.inputs.rnd.drop 1, drawCount := s.inputs.drawCount + 1 })) ∧
  (∀ (u : Fin 3) (i : Nat), i < 600 → State.reset.mem.read (.user u) i = 2048) ∧
  (∀ (e : Fin 2) (x : Nat), x < 4096 →
    ((State.reset.mem.read (.vol e) x).toNat : Int) = 2048 + ((x : Int) - 2048) * 1023 / 1024) ∧
  (∀ x : Nat, x < 4096 →
    (State.reset.mem.read .shaper x).toNat = x ∧ (State.reset.mem.read .gain x).toNat = x) ∧
  ∀ q : Fin 8,
    (∀ (v : Fin 4) (t : Fin 16), State.reset.mem.seq[q].notes[v][t] = none) ∧
    (∀ t : Fin 16, State.reset.mem.seq[q].tie[t] = false ∧ State.reset.mem.seq[q].mute[t] = false ∧
      State.reset.mem.seq[q].vel[t] = 100) ∧
    (∀ c : Fin 4, State.reset.mem.seq[q].ccNum[c] = 0 ∧ ∀ t : Fin 16, State.reset.mem.seq[q].ccVal[c][t] = 0) ∧
    State.reset.mem.seq[q].noteDuration = 6 ∧ State.reset.mem.seq[q].divSelection = 2 ∧
    State.reset.mem.seq[q].patternLength = 16 ∧ State.reset.mem.seq[q].transpose = 0 ∧
    State.reset.mem.seq[q].swing = 0 ∧ State.reset.mem.seq[q].bpm = 120

/-- R55 with the ranges of 10_state and 20_memory (`Inv`), and 20_memory R77, R78, R80, hold at reset, under the default
configuration and under every legal one (log 8). The conventions of `Inv` that StepKeepsStateLegal names are the model's
(log 3, 9, 10). -/
def Obligations.ResetStateIsLegal : Prop :=
  (Inv State.reset ∧ TablesMatch State.reset) ∧
  ∀ p : Params, p.Legal → Inv (State.resetWith p) ∧ TablesMatch (State.resetWith p)

/-! ## The machine -/

/-- R55, R413: every step keeps a legal state legal, under its configuration. Besides R55 and the ranges of 10_state,
`Inv` holds conventions of the model: one pulse per request latch (log 3), a legal configuration (log 8), the canonical
form of the table memories (log 9), the lists of held notes without repeats and with their lengths tracked (log 10), and
`periodUs` as the formula of R271. -/
def Obligations.StepKeepsStateLegal : Prop :=
  ∀ s t : State, Inv s → step s = .next t → Inv t ∧ t.params = s.params

/-- R410, R421: in a legal state no step is fatal. What it excludes is the model's fault `tableIndex`, a table read
outside its words (log 11). -/
def Obligations.NothingIsFatal : Prop := ∀ s : State, Inv s → ∃ t, step s = .next t

/-- 20_memory R77, R78, R80, R84: every step keeps every lookup table what its parameter asks for. -/
def Obligations.StepKeepsTablesMatched : Prop :=
  ∀ s t : State, TablesMatch s → step s = .next t → TablesMatch t

/-- 20_memory R70, R83: a word of a table memory changes only by the operation that stores into that kind of table, a
Sequence record only by an editing operation. -/
def Obligations.TablesChangeOnlyByTheirOperations : Prop :=
  ∀ (i : Instr) (s t : State), exec i s = .next t →
    (∀ (T : Space) (a : Nat), mayStore i T = false → t.mem.read T a = s.mem.read T a) ∧
    (mayEdit i = false → t.mem.seq = s.mem.seq)

/-- R21, R29, R30, R254: phases, filter registers, load ramp and outputs move only in AUDIO_TICK and RESET. -/
def Obligations.AudioStateMovesOnlyInAudioTick : Prop :=
  ∀ (i : Instr) (s t : State), exec i s = .next t → i ≠ .audioTick → i ≠ .reset →
    (∀ o : Fin 8, t.osc[o].phase = s.osc[o].phase) ∧ t.filter.lp0 = s.filter.lp0 ∧ t.filter.lp1 = s.filter.lp1 ∧
    t.mixer.loadRamp = s.mixer.loadRamp ∧ t.mixer.outL = s.mixer.outL ∧ t.mixer.outR = s.mixer.outR

/-- R411: a sticky bit changes only by CLR_STATUS, RESET and, for STORAGE_FAIL, REPORT_STORE_ERR; no operation sets
ILLEGAL_CMD. -/
def Obligations.StickyBitsChangeOnlyByTheirOperations : Prop :=
  ∀ (i : Instr) (s t : State), exec i s = .next t → (∀ mask, i ≠ .clrStatus mask) → i ≠ .reset →
    t.status.illegalCmd = s.status.illegalCmd ∧
    (i ≠ .reportStoreErr → t.status.storageFail = s.status.storageFail)

/-! ## Encoding -/

/-- R101, R102, R103. -/
def Obligations.DecodeInvertsEncode : Prop := ∀ i : Instr, decode (encode i) = .ok i

/-- R103: bits that an operation does not read may hold anything, and an assembler writes them as zero. -/
def Obligations.EncodeRestoresReadBits : Prop :=
  ∀ w : CmdWord, decode w = decode (w &&& readMask (opOf w)) ∧
    ∀ i : Instr, decode w = .ok i → encode i = w &&& readMask (opOf w)

/-- Words from the examples of the spec's rules. -/
def Obligations.ExampleWordsDecode : Prop :=
  decode 0x0000000000000000#64 = .ok .nop ∧ decode 0x0500000000000000#64 = .ok .reset ∧
  decode 0x0600000000000001#64 = .ok (.loadMute 1) ∧ decode 0x0A00000000000004#64 = .ok (.setBitmunch 4) ∧
  decode 0x1001000000000002#64 = .ok (.setWave 1 2) ∧ decode 0x11000000FFFFFFFF#64 = .ok (.setOctave 0 0xFFFFFFFF) ∧
  decode 0x2000000000002710#64 = .ok (.setAttack 10000) ∧ decode 0x36060000000003FF#64 = .ok (.setMod 6 1023) ∧
  decode 0x4000000000000080#64 = .ok (.setCutoff 128) ∧ decode 0x4801000000000200#64 = .ok (.setShaper 1 512) ∧
  decode 0x5000000000000078#64 = .ok (.setBpm 120) ∧ decode 0x6203000000000000#64 = .ok (.seqSelect 3) ∧
  decode 0x6500002500000007#64 = .ok (.seqWrite 0 0 2 5 7) ∧
  decode 0x6C00000300000000#64 = .ok (.seqCopy 0 3) ∧ decode 0x7000000000000001#64 = .ok (.arpEnable 1) ∧
  decode 0x8000FFF40000007F#64 = .ok (.keyOn 0xFFF4 127) ∧ decode 0x8602000080000000#64 = .ok (.setVoice 2 0x80000000)

/-- R109. -/
def Obligations.UndefinedOpcodeSetsIllegalCmd : Prop :=
  (∀ op : OpField, op ∉ legalOps ↔
    (0x0C ≤ op.toNat ∧ op.toNat ≤ 0x0F) ∨ (0x16 ≤ op.toNat ∧ op.toNat ≤ 0x1F) ∨
    (0x26 ≤ op.toNat ∧ op.toNat ≤ 0x2F) ∨ (0x37 ≤ op.toNat ∧ op.toNat ≤ 0x3F) ∨
    (0x44 ≤ op.toNat ∧ op.toNat ≤ 0x47) ∨ (0x4A ≤ op.toNat ∧ op.toNat ≤ 0x4F) ∨
    (0x57 ≤ op.toNat ∧ op.toNat ≤ 0x5F) ∨ (0x67 ≤ op.toNat ∧ op.toNat ≤ 0x6B) ∨ op.toNat = 0x6F ∨
    op.toNat = 0x71 ∨ op.toNat = 0x72 ∨ (0x79 ≤ op.toNat ∧ op.toNat ≤ 0x7F) ∨ 0x87 ≤ op.toNat) ∧
  ∀ (w : CmdWord) (s : State),
    (opOf w ∉ legalOps → runWord w s = .next (s.withStatus { s.status with illegalCmd := true })) ∧
    (opOf w ∈ legalOps → ∃ i, decode w = .ok i ∧ runWord w s = exec i s)

/-- R110: every selector and address that names nothing, and so every operation that is not well-formed. -/
def Obligations.NamingNothingChangesNothing : Prop :=
  ∀ s : State,
    (∀ (sel : SelField) (addr : AddrField) (field sub step : BitVec 4) (data : DataField),
      (2 ≤ sel.toNat → exec (.setWave sel data) s = .next s ∧ exec (.setOctave sel data) s = .next s ∧
        exec (.setVolume sel data) s = .next s ∧ exec (.setDetune sel data) s = .next s) ∧
      (3 ≤ sel.toNat ∨ 600 ≤ addr.toNat → exec (.writeWavetable sel addr data) s = .next s) ∧
      (s.params.nShaperType ≤ sel.toNat → exec (.setShaper sel data) s = .next s) ∧
      (4 ≤ sel.toNat → exec (.setVoice sel data) s = .next s) ∧
      (17 ≤ sel.toNat → exec (.setMod sel data) s = .next s) ∧
      (8 ≤ sel.toNat → exec (.seqSelect sel) s = .next s ∧ exec (.seqClear sel) s = .next s) ∧
      (8 ≤ sel.toNat ∨ 6 ≤ field.toNat ∨ (4 ≤ sub.toNat ∧ (field.toNat = 0 ∨ field.toNat = 4 ∨ field.toNat = 5)) →
        exec (.seqWrite sel field sub step data) s = .next s) ∧
      (8 ≤ sel.toNat ∨ 6 ≤ addr.toNat → exec (.seqSetParam sel addr data) s = .next s) ∧
      (8 ≤ sel.toNat ∨ 8 ≤ addr.toNat → exec (.seqCopy sel addr) s = .next s)) ∧
    ∀ i : Instr, i.WellFormed s.params = false → exec i s = .next s

/-! ## The step -/

/-- A step takes the request that waits first and runs the operation its word decodes to; a command word placed on CMD
is the next one run, whatever else waited, over a state that differs only in the waiting requests (log 1, 2, 4, 15). -/
def Obligations.StepRunsTheDecodedOperation : Prop :=
  (∀ (s t : State) (w : CmdWord), arbitrate (accept s) = some (w, t) →
    (∀ i, decode w = .ok i → step s = exec i t) ∧
    (∀ e, decode w = .error e → step s = .next (t.withStatus { t.status with illegalCmd := true }))) ∧
  (∀ s : State, arbitrate (accept s) = none →
    step s = .next ((accept s).withPorts { (accept s).ports with cmdReady := false })) ∧
  ∀ (s : State) (i : Instr),
    step (s.withFetchWord 64 (encode i).toNat) =
      exec i (s.withPorts { s.ports with audioReq := false, strobes := [], cmdReady := true })

/-- R107, R416, R418: AUDIO_REQ first, then the other request ports as they arrived, then CMD; each port holds one pulse.
By the model's choice the latches are state (log 3), words on CMD wait in line and CMD_READY tells that one was served
(log 4), and before a step NOW and the ports take in the instants of the first batch of `arrivals`, in order (log 2). -/
def Obligations.RequestsAreServedInOrder : Prop :=
  ∀ s : State,
    (s.ports.audioReq = true →
      arbitrate s = some (encode .audioTick, s.withPorts { s.ports with audioReq := false, cmdReady := false })) ∧
    (∀ rest, s.ports.audioReq = false →
      let taken := s.withPorts { s.ports with strobes := rest, cmdReady := false }
      (s.ports.strobes = .lfo :: rest → arbitrate s = some (encode .lfoTick, taken)) ∧
      (s.ports.strobes = .env :: rest → arbitrate s = some (encode .envTick, taken)) ∧
      (s.ports.strobes = .clk :: rest → arbitrate s = some (encode .clockTick, taken))) ∧
    (∀ w rest, s.ports.audioReq = false → s.ports.strobes = [] → s.inputs.cmdQueue = w :: rest →
      arbitrate s =
        some (w, (s.withInputs { s.inputs with cmdQueue := rest }).withPorts { s.ports with cmdReady := true })) ∧
    (s.ports.audioReq = false → s.ports.strobes = [] → s.inputs.cmdQueue = [] → arbitrate s = none) ∧
    (s.inputs.arrivals = [] → accept s = s) ∧
    (∀ batch rest, s.inputs.arrivals = batch :: rest →
      accept s = batch.foldl acceptEvent (s.withInputs { s.inputs with arrivals := rest })) ∧
    ∀ e : PortEvent, acceptEvent s e =
      (s.withInputs { s.inputs with now := e.now, cmdQueue := s.inputs.cmdQueue ++ e.cmd.toList }).withPorts
        { s.ports with
          audioReq := s.ports.audioReq || e.audio
          strobes := s.ports.strobes ++
            ((if e.lfo = true ∧ Strobe.lfo ∉ s.ports.strobes then [Strobe.lfo] else []) ++
            (if e.env = true ∧ Strobe.env ∉ s.ports.strobes then [Strobe.env] else []) ++
            (if e.clk = true ∧ Strobe.clk ∉ s.ports.strobes then [Strobe.clk] else [])) }

/-! ## System -/

/-- R412, R414, R441. -/
def Obligations.NopAndStatusOperations : Prop :=
  ∀ (s : State) (mask : DataField),
    exec .nop s = .next s ∧
    exec (.clrStatus mask) s = .next (s.withStatus
      { storageFail := if mask.getLsbD 0 then false else s.status.storageFail
        illegalCmd := if mask.getLsbD 1 then false else s.status.illegalCmd }) ∧
    exec .reportStoreErr s = .next (s.withStatus { s.status with storageFail := true })

/-- R52. -/
def Obligations.StatusWordHasListedBits : Prop :=
  statusWord State.reset = 0 ∧ ∀ s : State,
    (statusWord s).getLsbD 0 = s.status.storageFail ∧ (statusWord s).getLsbD 1 = s.status.illegalCmd ∧
    (statusWord s).getLsbD 2 = s.clock.receivingClock ∧ (statusWord s).getLsbD 3 = s.env.trigPending ∧
    ((statusWord s).getLsbD 4 = true ↔ s.mixer.loadMute = true ∧ s.mixer.loadRamp = 0) ∧
    ((statusWord s).getLsbD 5 = true ↔ s.env.stage ≠ .idle) ∧
    (statusWord s).getLsbD 6 = false ∧ (statusWord s).getLsbD 7 = false ∧
    (∃ t, exec .reportStoreErr s = .next t ∧ (statusWord t).getLsbD 0 = true) ∧
    (∀ w, opOf w ∉ legalOps → ∃ t, runWord w s = .next t ∧ (statusWord t).getLsbD 1 = true) ∧
    ∃ t, exec (.clrStatus 3) s = .next t ∧ (statusWord t).getLsbD 0 = false ∧ (statusWord t).getLsbD 1 = false

/-- R440, R445: RESET gives the block its reset values, with no request waiting and RSP_VALID 0, and leaves its
configuration. By the model's choice it leaves the inputs and CMD_READY too (log 6), the latches are state (log 3), CMD_READY
is false in State.reset (log 4), RSP is 0 (log 7), and reset values that another configuration's ranges may not hold are
brought into range (log 8). -/
def Obligations.ResetOperationRestoresReset : Prop :=
  (∀ s : State, exec .reset s = .next
    ((({ toBlock := Block.reset s.params, params := s.params, inputs := s.inputs } : State)).withPorts
      { audioReq := false, strobes := [], cmdReady := s.ports.cmdReady, rspValid := false, rsp := 0 })) ∧
  State.reset.toBlock = Block.reset Params.standard ∧
  State.reset.ports = { audioReq := false, strobes := [], cmdReady := false, rspValid := false, rsp := 0 } ∧
  ∀ p : Params, Block.reset p =
    { State.reset.toBlock with
      filter := { State.reset.filter with cutEff := min 255 (2 ^ p.fxShift - 1), cutoff := min 255 (2 ^ p.fxShift - 1) }
      lfo := { State.reset.lfo with rate := max p.lfoTicksMin (min p.lfoTicksMax 37) }
      clock := { State.reset.clock with div := p.divTable[2] } }

/-- R425. -/
def Obligations.DrainAnswersAndEmptiesOutbox : Prop :=
  ∀ s : State, exec .outboxDrain s = .next
    (((s.withOutbox
      { arpOn := none, arpOff := none, seqOn := none, seqOff := none, clock := 0, seqNotes := s.outbox.seqNotes }).withUi
      { s.ui with refreshDue := false }).withPorts { s.ports with rsp := response s, rspValid := true })

/-- R113. -/
def Obligations.ResponseHasListedFields : Prop :=
  ∀ s : State, Inv s → ∃ t, exec .outboxDrain s = .next t ∧ t.ports.rspValid = true ∧
    let rsp := t.ports.rsp
    (rsp.getLsbD 31 = s.outbox.arpOn.isSome ∧
      (∀ n vel, s.outbox.arpOn = some (n, vel) →
        ((rsp.extractLsb' 24 7).toNat : Int) = vel ∧ (rsp.extractLsb' 16 8).toInt = n) ∧
      (s.outbox.arpOn = none → rsp.extractLsb' 16 15 = 0)) ∧
    (rsp.getLsbD 15 = s.outbox.arpOff.isSome ∧ rsp.extractLsb' 8 7 = 0 ∧
      (∀ n, s.outbox.arpOff = some n → (rsp.extractLsb' 0 8).toInt = n) ∧
      (s.outbox.arpOff = none → rsp.extractLsb' 0 8 = 0)) ∧
    (∀ v : Fin 4,
      (∀ b n, s.outbox.seqOn = some b → b.notes[v] = some n →
        (rsp.extractLsb' (32 + 8 * v.val) 8).toInt = n) ∧
      ((∀ b n, s.outbox.seqOn = some b → b.notes[v] ≠ some n) →
        rsp.extractLsb' (32 + 8 * v.val) 8 = 0) ∧
      (rsp.getLsbD (80 + v.val) = true ↔ ∃ b n, s.outbox.seqOn = some b ∧ b.notes[v] = some n)) ∧
    (rsp.getLsbD 95 = s.outbox.seqOn.isSome ∧
      (∀ b, s.outbox.seqOn = some b → ((rsp.extractLsb' 88 7).toNat : Int) = b.vel) ∧
      (s.outbox.seqOn = none → rsp.extractLsb' 88 7 = 0) ∧ rsp.extractLsb' 84 4 = 0) ∧
    (rsp.getLsbD 79 = s.outbox.seqOff.isSome ∧ rsp.extractLsb' 76 3 = 0 ∧
      (rsp.extractLsb' 64 8).toNat = s.outbox.clock) ∧
    (∀ v : Fin 4,
      (∀ b n, s.outbox.seqOff = some b → b[v] = some n →
        (rsp.extractLsb' (96 + 8 * v.val) 8).toInt = n) ∧
      ((∀ b n, s.outbox.seqOff = some b → b[v] ≠ some n) → rsp.extractLsb' (96 + 8 * v.val) 8 = 0) ∧
      (rsp.getLsbD (72 + v.val) = true ↔ ∃ b n, s.outbox.seqOff = some b ∧ b[v] = some n)) ∧
    rsp.getLsbD 128 = s.ui.refreshDue ∧ rsp.getLsbD 129 = s.ui.blinkOn ∧
    rsp.extractLsb' 130 6 = 0 ∧ (rsp.extractLsb' 136 8).toNat = s.ui.arrowFrame ∧
    rsp.extractLsb' 144 8 = statusWord s ∧ rsp.extractLsb' 152 8 = 0

/-! ## Settings that store one operand -/

/-- R158, R167, R169, R181, R182, R183, R184. -/
def Obligations.MixerAndEnvelopeSettingsAreStored : Prop :=
  ∀ (s : State) (data : DataField),
    exec (.setBitmunch data) s = .next (s.withMixer { s.mixer with bitMunch := min s.params.bitMunchMax data.toNat }) ∧
    exec (.loadMute data) s = .next (s.withMixer { s.mixer with loadMute := decide (data ≠ 0) }) ∧
    exec (.setMasterVol data) s = .next (s.withMixer { s.mixer with masterVol := min 1023 (uData data) }) ∧
    exec (.setAttack data) s = .next (s.withEnv { s.env with attack := data.toNat }) ∧
    exec (.setDecay data) s = .next (s.withEnv { s.env with decay := data.toNat }) ∧
    exec (.setSustain data) s = .next (s.withEnv { s.env with sustain := min 1023 (uData data) }) ∧
    exec (.setRelease data) s = .next (s.withEnv { s.env with release := data.toNat })

/-- R228, R232, R233, R234, R235, R236, R303, R304, R334. -/
def Obligations.LfoAndTransportSettingsAreStored : Prop :=
  ∀ (s : State) (data : DataField) (sel : SelField) (step : BitVec 4) (q : Fin 8),
    exec (.setLfoShape data) s = .next (s.withLfo { s.lfo with
      shape := [Wave.sine, .triangle, .saw, .square, .user1, .user2, .user3, .noise].getD (min 7 data.toNat) .noise }) ∧
    exec (.setLfoRate data) s = .next (s.withLfo
      { s.lfo with rate := within s.params.lfoTicksMin s.params.lfoTicksMax (uData data) }) ∧
    exec (.setLfoRange data) s = .next (s.withLfo { s.lfo with range := min 3 data.toNat }) ∧
    exec (.setLfoRetrig data) s = .next (s.withLfo { s.lfo with retrig := decide (data ≠ 0) }) ∧
    exec (.setLfoSync data) s = .next (s.withLfo { s.lfo with
      sync := [LfoSync.free, .eighth, .quarter, .half, .whole, .doubleWhole].getD (min 5 data.toNat) .free
      eighthSync := 0 }) ∧
    exec .lfoSyncReset s = .next (s.withLfo { s.lfo with index := 0, counter := 0, eighthSync := 0 }) ∧
    (sel.toNat = q.val → exec (.seqSelect sel) s = .next (s.withSeq { s.seq with sel := q })) ∧
    exec (.setPlayMode data) s = .next (s.withSeq { s.seq with
      playMode := [PlayMode.forward, .reverse, .pendulum, .randomInterval, .drunk, .random].getD
        (min 5 data.toNat) .random
      dir := 1, mag := 1 }) ∧
    exec (.seqEdit step data) s =
      .next (s.withSeq { s.seq with edit := decide (data ≠ 0), editStep := step.toFin })

/-- R342, R343, R344, R345, R346, R347, R352. -/
def Obligations.ArpSettingsAreStoredAndSort : Prop :=
  ∀ (s : State) (data : DataField),
    exec (.setArpStepMode data) s = .next (s.withArp { s.arp with
      stepMode := [ArpStepMode.step1, .step2, .step3, .random, .twoForwardOneBack].getD
        (min 4 data.toNat) .twoForwardOneBack
      fresh := true, back := false, restart := false }) ∧
    exec (.setArpOctRange data) s = .next (s.withArp { s.arp with
      octRange := min 3 data.toNat, oct := s.arp.oct % (min 3 data.toNat + 1) }) ∧
    exec (.setArpNoteDur data) s = .next (s.withArp { s.arp with dur := max 1 (min 95 data.toNat) }) ∧
    exec (.setArpMono data) s = .next (s.withArp { s.arp with mono := decide (data ≠ 0) }) ∧
    ∃ byDir bySource : List Note,
      exec (.setArpDir data) s = .next (s.withArp { s.arp with
        dir := if data = 0 then .forward else .backward, sorted := byDir }) ∧
      exec (.setArpSource data) s = .next (s.withArp { s.arp with
        source := if data = 0 then .frontPanel else .midi, sorted := bySource }) ∧
      (s.arp.source = .frontPanel → byDir = if data = 0 then s.arp.raw else s.arp.raw.reverse) ∧
      (s.arp.source = .midi →
        if data = 0 then byDir.Perm s.arp.raw ∧ byDir.Pairwise (· ≤ ·) else byDir = s.arp.sorted) ∧
      (s.arp.dir = .forward →
        if data = 0 then bySource = s.arp.raw else bySource.Perm s.arp.raw ∧ bySource.Pairwise (· ≤ ·)) ∧
      (s.arp.dir = .backward → bySource = if data = 0 then s.arp.raw.reverse else s.arp.sorted)

/-! ## Filter, oscillators and tables -/

/-- R246, R247, R248, R249, R250, R251. -/
def Obligations.FilterSettingsDeriveCoefficients : Prop :=
  (Params.standard.fxShift = 8 ∧ Params.standard.fxUnity = 256) ∧
  ∀ (s : State) (data : DataField),
    let top := 2 ^ s.params.fxShift - 1
    let cut := within 0 top (s.filter.cutoff + s.envMod.cut + s.vel.cut + s.lfoMod.cut)
    updateFilterCoef s =
      s.withFilter { s.filter with
        cutEff := cut
        fb := s.filter.resonance +
          s.filter.resonance * (s.params.fxUnity - cut / 128) / 2 ^ s.params.fxShift } ∧
    exec (.setCutoff data) s =
      .next (updateFilterCoef (s.withFilter { s.filter with cutoff := min top (uData data) })) ∧
    exec (.setResonance data) s =
      .next (updateFilterCoef (s.withFilter { s.filter with resonance := min top (uData data) })) ∧
    exec (.setFilterMode data) s = .next (s.withFilter { s.filter with
      mode := if data = 0 then .lowPass else if data = 1 then .bandPass else .highPass }) ∧
    exec (.setFilterBypass data) s = .next (s.withFilter { s.filter with bypass := decide (data ≠ 0) })

/-- R130, R135, R136. -/
def Obligations.WaveAndPulseWidthAreSet : Prop :=
  (Params.standard.lfoPwMinDepth = 8) ∧
  (∀ (s : State) (e : Fin 2) (sel : SelField) (data : DataField), sel.toNat = e.val →
    exec (.setWave sel data) s = .next (s.withEngines (s.engines.set e { s.engines[e] with
      wave := [Wave.sine, .triangle, .saw, .square, .user1, .user2, .user3, .noise].getD (min 7 data.toNat) .noise }))) ∧
  ∀ (s : State) (data : DataField),
    (let base := within 0 1023 (s.pw.knob + s.vel.pw)
     let eff := if s.params.lfoPwMinDepth < s.matrix[8] then within 0 1023 (base + s.lfoMod.pw) else base
     updatePulseWidth s = s.withPw { knob := s.pw.knob, eff := eff, edge := eff * 600 / 1024 }) ∧
    exec (.setPw data) s = .next (updatePulseWidth (s.withPw { s.pw with knob := min 1023 (uData data) }))

/-- R127. -/
def Obligations.IncrementsAreDerivedFromNotes : Prop :=
  ∀ s : State,
    (∀ (e : Fin 2) (v : Fin 4),
      (s.voices[v].note = none → (deriveIncrements s).osc[oscOf e v] = s.osc[oscOf e v]) ∧
      ∀ n, s.voices[v].note = some n →
        let x := s.osc[oscOf e v]
        let y := s.voices[v]
        let eff := within s.params.octMin s.params.octMax (s.engines[e].octave + s.lfoMod.oct[e])
        let off := s.engines[e].detune + s.lfoMod.pitch[e] + s.envMod.pitch[e] + s.vel.pitch[e]
        let tgt := within 0 s.params.incMax
          (s.params.incTable.getD (within 0 127 (s.params.noteRef + n + 12 * eff)).toNat 0 + off + s.alloc.unisonOff[v])
        let el := (s.inputs.now - y.portaT0).toNat
        (deriveIncrements s).osc[oscOf e v] =
          { phase := x.phase
            inc :=
              if y.gliding = true ∧ x.tgtValid = true ∧ 0 < s.alloc.portaTime ∧ el < s.alloc.portaTime then
                x.portaFrom + (tgt - x.portaFrom) * (el : Int) / (s.alloc.portaTime : Int)
              else tgt
            lastTgt := tgt
            tgtValid := true
            portaFrom := if x.tgtValid then x.portaFrom else tgt }) ∧
    (∀ v : Fin 4, (deriveIncrements s).voices[v] = { s.voices[v] with
      gliding := if s.alloc.portaTime = 0 ∨ s.alloc.portaTime ≤ (s.inputs.now - s.voices[v].portaT0).toNat then false
        else s.voices[v].gliding }) ∧
    deriveIncrements s = (s.withOsc (deriveIncrements s).osc).withVoices (deriveIncrements s).voices

/-- R131, R134, R378, R379, R380, R392. -/
def Obligations.PitchAndUnisonSettingsRederive : Prop :=
  (∀ (s : State) (e : Fin 2) (sel : SelField) (data : DataField),
    (sel.toNat = e.val →
      exec (.setOctave sel data) s = .next (deriveIncrements (s.withEngines
        (s.engines.set e { s.engines[e] with octave := within s.params.octMin s.params.octMax data.toInt }))) ∧
      exec (.setDetune sel data) s = .next (deriveIncrements (s.withEngines
        (s.engines.set e { s.engines[e] with detune := within (-s.params.detuneMax) s.params.detuneMax data.toInt })))) ∧
    exec (.setPortamento data) s = .next (deriveIncrements (s.withAlloc { s.alloc with portaTime := data.toNat }))) ∧
  ∀ (s : State) (data : DataField),
    (∀ c : Alloc, ∃ off : Vector Int 4,
      updateUnison (s.withAlloc c) = s.withAlloc { c with unisonOff := off } ∧
      ∀ v : Fin 4, off[v] =
        if c.voiceMode ≠ .paraphonic ∧ 1 ≤ v.val ∧ v.val ≤ c.unisonCount then (v.val : Int) * c.unisonSpread else 0) ∧
    exec (.setUnison data) s = .next (deriveIncrements (updateUnison
      (s.withAlloc { s.alloc with unisonCount := min 3 data.toNat }))) ∧
    exec (.setUnisonSpread data) s = .next (deriveIncrements (updateUnison
      (s.withAlloc { s.alloc with unisonSpread := min s.params.spreadMax (uData data) })))

/-- R133. -/
def Obligations.SetVolumeRebuildsTheVolumeTable : Prop :=
  ∀ (s : State) (e : Fin 2) (sel : SelField) (data : DataField), sel.toNat = e.val →
    ∃ m : Memory,
      exec (.setVolume sel data) s = .next ((s.withEngines
        (s.engines.set e { s.engines[e] with volume := min 1023 (uData data) })).withMem m) ∧
      (∀ x : Nat, x < 4096 →
        ((m.read (.vol e) x).toNat : Int) = 2048 + ((x : Int) - 2048) * min 1023 (uData data) / 1024) ∧
      (∀ (T : Space) (a : Nat), T ≠ .vol e → m.read T a = s.mem.read T a) ∧ m.seq = s.mem.seq

/-- R256, R257, R258, R261, R262; a curve that the configuration leaves to the implementation, or that R257 does not list, is
the model's free function (log 8). -/
def Obligations.ShaperAndGainTablesAreRebuilt : Prop :=
  (Params.standard.nShaperType = 4 ∧ Params.standard.shaperGen = .listed ∧ Params.standard.gainSlope = 3) ∧
  (∀ (s : State) (sel : SelField) (data : DataField), sel.toNat < s.params.nShaperType →
    let a := min 1023 (uData data)
    ∃ m : Memory,
      exec (.setShaper sel data) s =
        .next ((s.withShape { s.shape with shaperType := sel.toNat, shaperAmount := a }).withMem m) ∧
      (∀ x : Nat, x < 4096 →
        let word := m.read .shaper x
        let d := (x : Int) - 2048
        let y := d * (1024 + 3 * a) / 1024
        (sel.toNat = 0 → word.toNat = x) ∧
        (s.params.shaperGen = .listed →
          (sel.toNat = 1 → (word.toNat : Int) = within 0 4095 (2048 + d * (1024 + 7 * a) / 1024)) ∧
          (sel.toNat = 2 → (word.toNat : Int) =
            within 0 4095 (2048 + (if 2047 < y then 4094 - y else if y < -2048 then -4096 - y else y))) ∧
          (sel.toNat = 3 → (word.toNat : Int) = within 0 4095 (2048 + d + (|d| - d) * a / 1024))) ∧
        ((s.params.shaperGen = .implementation ∧ sel.toNat ≠ 0) ∨ 4 ≤ sel.toNat →
          word = Config.shaperCurve sel.toNat (min 1023 data.toNat) x)) ∧
      (∀ (T : Space) (a : Nat), T ≠ .shaper → m.read T a = s.mem.read T a) ∧ m.seq = s.mem.seq) ∧
  ∀ (s : State) (data : DataField),
    ∃ m : Memory,
      exec (.setGain data) s =
        .next ((s.withShape { s.shape with gainAmount := min 1023 (uData data) }).withMem m) ∧
      (∀ x : Nat, x < 4096 → ((m.read .gain x).toNat : Int) =
        within 0 4095 (2048 + ((x : Int) - 2048) * (1024 + s.params.gainSlope * min 1023 (uData data)) / 1024)) ∧
      (∀ (T : Space) (a : Nat), T ≠ .gain → m.read T a = s.mem.read T a) ∧ m.seq = s.mem.seq

/-- R137; the canonical form of the memory, in the hypothesis and the last clause, is the model's choice (log 9). -/
def Obligations.WriteWavetableStoresOneWord : Prop :=
  ∀ (s : State) (u : Fin 3) (sel : SelField) (addr : AddrField) (data : DataField),
    s.mem.wf = true → sel.toNat = u.val → addr.toNat < 600 →
    ∃ m : Memory,
      exec (.writeWavetable sel addr data) s = .next (s.withMem m) ∧
      (∀ (T : Space) (a : Nat), m.read T a =
        if T = .user u ∧ a = addr.toNat then BitVec.ofNat 12 (min 4095 data.toNat) else s.mem.read T a) ∧
      m.seq = s.mem.seq ∧ m.wf = true

/-- R220, R221, R222, R223, R224, R226, R237. -/
def Obligations.SetModDerivesLfoOutputs : Prop :=
  (Params.standard.lfoPitchKnee = 512 ∧ Params.standard.lfoPitchBoost = 4 ∧ Params.standard.lfoPitchShift = 2 ∧
    Params.standard.lfoCutShift = 13 ∧ Params.standard.lfoAmpShift = 12 ∧ Params.standard.lfoPwShift = 11 ∧
    Params.standard.lfoOctShift = 19) ∧
  (∀ s : State,
    let d := s.matrix
    let L := s.lfo.val - 2048
    let p := s.params
    let boost := fun f : Int => if f < p.lfoPitchKnee then 1 else p.lfoPitchBoost
    let out := s.withLfoMod
      { pitch := #v[L * d[4] * boost d[4] / 2 ^ p.lfoPitchShift, L * d[5] * boost d[5] / 2 ^ p.lfoPitchShift]
        cut := L * d[6] / 2 ^ p.lfoCutShift
        ampMod := s.lfo.val * d[7] / 2 ^ p.lfoAmpShift
        pw := L * d[8] / 2 ^ p.lfoPwShift
        oct := if s.env.stage = .idle then s.lfoMod.oct
          else #v[L * d[9] / 2 ^ p.lfoOctShift, L * d[10] / 2 ^ p.lfoOctShift] }
    lfoOutputs s =
      if s.env.stage = .idle then updatePulseWidth (updateFilterCoef out)
      else deriveIncrements (updatePulseWidth (updateFilterCoef out))) ∧
  ∀ (s : State) (k : Fin 17) (sel : SelField) (data : DataField), sel.toNat = k.val →
    exec (.setMod sel data) s = .next (lfoOutputs (s.withMatrix (s.matrix.set k (min 1023 (uData data)))))

/-! ## Envelope and velocity -/

/-- R194, R396. -/
def Obligations.ModulationScalesWithDepth : Prop :=
  (Params.standard.velPitchMul = 8 ∧ Params.standard.velCutShift = 9 ∧ Params.standard.velPwShift = 7 ∧
    Params.standard.envCutShift = 12 ∧ Params.standard.envRateShift = 10) ∧
  (∀ s : State, queueVelocity s = s.withQVel
    { pitch := #v[s.env.pendVel * s.matrix[11] * s.params.velPitchMul,
        s.env.pendVel * s.matrix[12] * s.params.velPitchMul]
      cut := s.env.pendVel * s.matrix[13] / 2 ^ s.params.velCutShift
      amp := 1023 - (127 - s.env.pendVel) * s.matrix[14] / 127
      pw := s.env.pendVel * s.matrix[15] / 2 ^ s.params.velPwShift
      rate := (s.lfo.rate - s.params.lfoTicksMin) * s.env.pendVel * s.matrix[16] / 129921 }) ∧
  ∀ s : State, envOutputs s = s.withEnvMod
    { pitch := #v[s.env.amp * s.matrix[0], s.env.amp * s.matrix[1]]
      cut := s.env.amp * s.matrix[2] / 2 ^ s.params.envCutShift
      rate := s.env.amp * s.matrix[3] / 2 ^ s.params.envRateShift }

/-- R185, R186, R187, R192. -/
def Obligations.EnvelopeIsTriggeredAndReleased : Prop :=
  (Params.standard.envClickThresh = 10 ∧ Params.standard.envClickStep = 5) ∧
  (∀ (s : State) (data : DataField), ∃ t, exec (.envTrigger data) s = .next t ∧ Triggered (min 127 (uData data)) s t) ∧
  ∀ s : State, ∃ t, exec .envRelease s = .next t ∧ Released s t

/-- R188, R193. -/
def Obligations.EnvTickEvaluatesTheStage : Prop :=
  ∀ s : State,
    let el := (s.inputs.now - s.env.t0).toNat
    (s.env.trigPending = true → ∃ t, exec .envTick s = .next t ∧ TriggerStepped s t) ∧
    (s.env.trigPending = false →
      (s.env.stage = .idle → exec .envTick s = .next s) ∧
      (s.env.stage = .attack → exec .envTick s = .next (evaluated (s.withEnv
        (if s.env.attack = 0 ∨ s.env.attack ≤ el then
          { s.env with amp := 1023, stage := .decay, start := 1023, t0 := s.inputs.now }
        else { s.env with amp := s.env.start + (1023 - s.env.start) * (el : Int) / (s.env.attack : Int) })))) ∧
      (s.env.stage = .decay → exec .envTick s = .next (evaluated (s.withEnv
        (if s.env.decay = 0 ∨ s.env.decay ≤ el then
          { s.env with amp := s.env.sustain, stage := .sustain, start := s.env.sustain, t0 := s.inputs.now }
        else { s.env with amp := s.env.start + (s.env.sustain - s.env.start) * (el : Int) / (s.env.decay : Int) })))) ∧
      (s.env.stage = .sustain → exec .envTick s = .next (evaluated (s.withEnv { s.env with amp := s.env.sustain }))) ∧
      (s.env.stage = .release → 0 < s.env.release → el < s.env.release →
        exec .envTick s = .next (evaluated (s.withEnv
          { s.env with amp := s.env.start + (0 - s.env.start) * (el : Int) / (s.env.release : Int) }))) ∧
      (s.env.stage = .release → s.env.release = 0 ∨ s.env.release ≤ el →
        ∃ voices : Vector Voice 4,
          exec .envTick s = .next (((updateFilterCoef ((s.withEnv { s.env with amp := 0, stage := .idle }).withEnvMod
            { pitch := #v[0, 0], cut := 0, rate := 0 })).withVoices voices).withAlloc { s.alloc with held := [] }) ∧
          ∀ v : Fin 4, voices[v] =
            { s.voices[v] with note := none, sounding := false, muteOnTrig := false, key := none }))

/-! ## The audio tick -/

/-- R123, R150, R168, R170: what AUDIO_TICK writes, and nothing else but the draws of its noise engines. That a draw takes
one word from the head of those RND supplies is the model's choice (log 5). -/
def Obligations.AudioTickWritesOnlyAudioState : Prop :=
  (Params.standard.cycle = 629145600 ∧ Params.standard.loadRampStep = 1) ∧
  ∀ s : State, Inv s →
    let draws := (if s.engines[0].wave = .noise then 1 else 0) + (if s.engines[1].wave = .noise then 1 else 0)
    ∃ (t : State) (osc : Vector Osc 8) (lp0 lp1 : Int) (out : Sample),
      exec .audioTick s = .next t ∧
      t = (((s.withOsc osc).withFilter { s.filter with lp0 := lp0, lp1 := lp1 }).withMixer
        { s.mixer with
          loadRamp := if s.mixer.loadMute then max 0 (s.mixer.loadRamp - s.params.loadRampStep)
            else min 1023 (s.mixer.loadRamp + s.params.loadRampStep)
          outL := out, outR := out }).withInputs
        { s.inputs with rnd := s.inputs.rnd.drop draws, drawCount := s.inputs.drawCount + draws } ∧
      ∀ o : Fin 8, osc[o] =
        { s.osc[o] with phase := (s.osc[o].phase + s.osc[o].inc) % (600 * 2 ^ s.params.fracBits) }

/-- R124, R125, R165, R166, R243, in the order of R150: the sample AUDIO_TICK puts out; a noise engine indexes its
volume table by a random number. -/
def Obligations.AudioTickRunsTheWholeChain : Prop :=
  ∀ s : State, Inv s →
    ∃ (t : State) (x : Vector Int 8) (idx0 idx1 : Int),
      exec .audioTick s = .next t ∧
      (∀ o : Fin 8, t.osc[o].phase = (s.osc[o].phase + s.osc[o].inc) % (600 * 2 ^ s.params.fracBits) ∧
        (s.engines[engineOf o].wave ≠ .noise → SoundsSample t o x[o])) ∧
      (if s.engines[0].wave = .noise then 0 ≤ idx0 ∧ idx0 ≤ 4095 else idx0 = (x[0] + x[1] + x[2] + x[3]) / 4) ∧
      (if s.engines[1].wave = .noise then 0 ≤ idx1 ∧ idx1 ≤ 4095 else idx1 = (x[4] + x[5] + x[6] + x[7]) / 4) ∧
      let vol0 : Int := (s.mem.read (.vol 0) idx0.toNat).toNat
      let vol1 : Int := (s.mem.read (.vol 1) idx1.toNat).toNat
      let s1 := (vol0 + vol1) / 2
      let s2 := 2048 + (s1 - 2048) / 2 ^ s.mixer.bitMunch * 2 ^ s.mixer.bitMunch
      let s3 := scaled s2 s.env.amp
      let s4 := scaled s3 (within 0 1023 (1023 - s.matrix[7] + s.lfoMod.ampMod))
      let s5 := scaled s4 s.vel.amp
      let s6 : Int := (s.mem.read .shaper s5.toNat).toNat
      let one := 2 ^ s.params.fxShift
      let inn := if s.filter.mode = .lowPass then (s6 - 2048) / 2 else s6 - 2048
      let hp := inn - s.filter.lp0
      let bp := s.filter.lp0 - s.filter.lp1
      let n0 := (s.filter.lp0 + s.filter.cutEff * (hp + s.filter.fb * bp / one) / one).bmod 4294967296
      let n1 := (s.filter.lp1 + s.filter.cutEff * (n0 - s.filter.lp1) / one).bmod 4294967296
      let tap := if s.filter.mode = .lowPass then n1 else if s.filter.mode = .bandPass then bp else hp
      let s8 := within 0 4095 (if s.filter.bypass then s6 else tap + 2048)
      let s9 : Int := (s.mem.read .gain s8.toNat).toNat
      let ramp := if s.mixer.loadMute then max 0 (s.mixer.loadRamp - s.params.loadRampStep)
        else min 1023 (s.mixer.loadRamp + s.params.loadRampStep)
      t.filter.lp0 = (if s.filter.bypass then s.filter.lp0 else n0) ∧
      t.filter.lp1 = (if s.filter.bypass then s.filter.lp1 else n1) ∧
      (t.mixer.outL.toNat : Int) = scaled (scaled s9 ramp) s.mixer.masterVol ∧ t.mixer.outR = t.mixer.outL

/-- R171: silence is a fixed point, with the curves that R257 lists; other curves are the model's free function (log 8). -/
def Obligations.SilenceStaysSilent : Prop :=
  ∀ s : State, Inv s → TablesMatch s → (∀ v : Fin 4, s.voices[v].sounding = false) →
    (∀ e : Fin 2, s.engines[e].wave ≠ .noise) → s.filter.lp0 = 0 → s.filter.lp1 = 0 →
    (s.shape.shaperType = 0 ∨ (s.params.shaperGen = .listed ∧ s.shape.shaperType < 4)) →
    ∃ t, exec .audioTick s = .next t ∧ t.mixer.outL = 2048 ∧ t.mixer.outR = 2048 ∧ t.filter.lp0 = 0 ∧ t.filter.lp1 = 0

/-! ## The LFO tick -/

/-- R214, R215, R217, R219, R230. That a noise LFO's draw takes one word from the head of those RND supplies is the
model's choice (log 5). -/
def Obligations.LfoTickCountsAndAdvances : Prop :=
  (Params.standard.syncPulses = #v[48, 96, 192, 384, 768] ∧ Params.standard.uiRefreshDiv = 441 ∧
    Params.standard.arrowDiv = 2205 ∧ Params.standard.blinkDiv = 5512) ∧
  ∀ s : State, Inv s →
    let p := s.params
    let pulses := if s.lfo.sync = .eighth then p.syncPulses[0] else if s.lfo.sync = .quarter then p.syncPulses[1]
      else if s.lfo.sync = .half then p.syncPulses[2] else if s.lfo.sync = .whole then p.syncPulses[3]
      else p.syncPulses[4]
    let target := if s.lfo.sync = .free then within p.lfoTicksMin s.lfo.rate (s.lfo.rate - s.envMod.rate - s.vel.rate)
      else max 1 (((s.clock.periodUs * pulses * p.lfoTickHz : Nat) : Int) / 600000000)
    let u := s.withUi
      { uiCounter := (s.ui.uiCounter + 1) % p.uiRefreshDiv
        refreshDue := s.ui.refreshDue || decide (s.ui.uiCounter + 1 = p.uiRefreshDiv)
        arrowCounter := (s.ui.arrowCounter + 1) % p.arrowDiv
        arrowFrame := if s.ui.arrowCounter + 1 = p.arrowDiv then (s.ui.arrowFrame + 1) % 256 else s.ui.arrowFrame
        blinkCounter := (s.ui.blinkCounter + 1) % p.blinkDiv
        blinkOn := if s.ui.blinkCounter + 1 = p.blinkDiv then !s.ui.blinkOn else s.ui.blinkOn }
    ((s.lfo.counter : Int) + 1 < target →
      exec .lfoTick s = .next (u.withLfo { s.lfo with counter := s.lfo.counter + 1 })) ∧
    (target ≤ (s.lfo.counter : Int) + 1 →
      let drawn := if s.lfo.shape = .noise then
          { s.inputs with rnd := s.inputs.rnd.drop 1, drawCount := s.inputs.drawCount + 1 }
        else s.inputs
      ∃ x : Int,
        wtRead s.lfo.shape (((s.lfo.index + 1) % 600 : Nat) : Int) s = some (x, s.withInputs drawn) ∧
        exec .lfoTick s = .next (lfoOutputs ((u.withInputs drawn).withLfo
          { s.lfo with counter := 0, index := (s.lfo.index + 1) % 600, val := x })))

/-! ## The clock -/

/-- R271, R272, R273, R286, R289. -/
def Obligations.TempoDivisionAndSyncAreSet : Prop :=
  (Params.standard.divTable = #v[48, 24, 12, 6]) ∧
  (∀ (s : State) (data : DataField),
    exec (.setBpm data) s = .next (s.withClock { s.clock with
      bpm := max 20 (min 320 data.toNat), periodUs := 60000000 / (max 20 (min 320 data.toNat) * 96) }) ∧
    exec (.setDivision data) s = .next (dividedBy (s.params.divTable.toList.getD (min 3 data.toNat) 0)
      (s.withClock { s.clock with divSel := min 3 data.toNat }))) ∧
  ∀ (s : State) (data : DataField),
    let lost := { s.ext with extSeen := false, extPulse := 0, bpmBufCount := 0, bpmBufIdx := 0 }
    exec .clockPoll s = .next
      (if s.clock.receivingClock = true ∧ 300000 ≤ (s.inputs.now - s.ext.lastExtTime).toNat then
        (s.withClock { s.clock with receivingClock := false }).withExt lost
      else s) ∧
    (let c := { s.clock with
        midiClockOut := data.getLsbD 0
        extSyncEnable := data.getLsbD 1
        outClockPhase := if data.getLsbD 0 then s.clock.outClockPhase else 0 }
     exec (.setMidiSync data) s = .next
      (if data.getLsbD 1 = false ∧ s.clock.receivingClock = true then
        (s.withClock { c with receivingClock := false }).withExt lost
      else s.withClock c))

/-- R283, R284, R285: an external clock message. -/
def Obligations.ExtClockLocksPhaseAndTempo : Prop :=
  ∀ s : State,
    (s.clock.extSyncEnable = false → exec .extClock s = .next s) ∧
    (s.clock.extSyncEnable = true →
      let iv := (s.inputs.now - s.ext.lastExtTime).toNat
      let gone : Bool := s.clock.receivingClock && decide (300000 ≤ iv)
      let pulse := if gone then 0 else s.ext.extPulse
      let count := if gone then 0 else s.ext.bpmBufCount
      let idx : Fin 24 := if gone then 0 else s.ext.bpmBufIdx
      let measured : Bool := s.ext.extSeen && !gone && decide (iv ≠ 0)
      let buf := if measured then s.ext.bpmBuf.set idx (min 65535 (60000000 / (iv * 24))) else s.ext.bpmBuf
      let count' := if measured then min 24 (count + 1) else count
      let mean := (buf.toList.take count').sum / count'
      let bpm := if measured = true ∧ 5 ≤ count' then max 20 (min 320 (mean + 1)) else s.clock.bpm
      exec .extClock s = .next ((s.withClock
        { s.clock with
          receivingClock := true
          swingOffset := s.mem.seq[s.seq.cur].swing * (s.clock.div / 2) / s.params.swingMax
          pulse := if pulse = 0 then 0 else s.clock.pulse
          eighth := if pulse = 0 then (s.clock.eighth + 1) % 4294967296 else s.clock.eighth
          bpm := bpm
          periodUs := if measured = true ∧ 5 ≤ count' then 60000000 / (bpm * 96) else s.clock.periodUs }).withExt
        { lastExtTime := s.inputs.now
          extSeen := true
          extPulse := (pulse + 1) % 12
          bpmBuf := buf
          bpmBufCount := count'
          bpmBufIdx := if measured then idx + 1 else idx }))

/-- R287, R288, R301, R302, R315: starting and stopping the sequencer, from the host and from an external clock. -/
def Obligations.SequencerStartsAndStops : Prop :=
  ∀ s : State,
    let started := s.withSeq { s.seq with running := true, step := 0, dir := 1, mag := 1 }
    let stopped := s.withSeq { s.seq with running := false }
    exec .seqStart s = .next (sequenceTempo (started.withClock { s.clock with pulse := 0 })) ∧
    exec .extStart s = .next
      (if s.clock.extSyncEnable then
        sequenceTempo ((started.withClock { s.clock with pulse := 0, outClockPhase := 0 }).withExt
          { s.ext with extPulse := 0 })
      else s) ∧
    ∃ t, (if s.seq.pendRel = none then t = stopped else StepReleased stopped t) ∧ exec .seqStop s = .next t ∧
      exec .extStop s = .next (if s.clock.extSyncEnable then t else s)

/-- R275, R277, R278, R279, R281, 43_lfo R229: what a CLOCK_TICK does around its dispatch, and which of the three engines
it runs. -/
def Obligations.ClockTickDispatchesAndAdvances : Prop :=
  (Params.standard.syncEighths = #v[1, 2, 4, 8, 16]) ∧
  ∀ s : State, Inv s →
    let eighths := s.lfo.eighthSync + 1
    let division := if s.lfo.sync = .eighth then s.params.syncEighths[0]
      else if s.lfo.sync = .quarter then s.params.syncEighths[1] else if s.lfo.sync = .half then s.params.syncEighths[2]
      else if s.lfo.sync = .whole then s.params.syncEighths[3] else s.params.syncEighths[4]
    let lfo := if s.clock.pulse = 0 ∧ s.lfo.sync ≠ .free then
        (if division ≤ eighths then { s.lfo with index := 0, counter := 0, eighthSync := 0 }
         else { s.lfo with eighthSync := eighths })
      else s.lfo
    let c := { s.clock with
      outClockPhase := if s.clock.midiClockOut then (s.clock.outClockPhase + 1) % 24 else s.clock.outClockPhase
      beatLed := decide (s.clock.pulse < 12) }
    let pre := ((s.withLfo lfo).withOutbox { s.outbox with
      clock := if s.clock.midiClockOut = true ∧ s.clock.outClockPhase = 0 then min 255 (s.outbox.clock + 1)
        else s.outbox.clock }).withClock c
    let live := pre.withClock { c with freeLatch := false }
    ∃ m t, exec .clockTick s = .next t ∧
      (s.arp.on = true → m = arpDispatch live) ∧
      (s.arp.on = false → s.seq.running = true → seqDispatch live = some m) ∧
      (s.arp.on = false → s.seq.running = false → m = freePlay pre) ∧
      t = m.withClock
        (if 2 * m.clock.div ≤ m.clock.pulse + 1 then
          { m.clock with pulse := 0, eighth := (m.clock.eighth + 1) % 4294967296 }
        else { m.clock with pulse := m.clock.pulse + 1 })

/-- R280: free play releases a hanging step and a hanging arpeggio note, once. -/
def Obligations.FreePlayReleasesHangingNotesOnce : Prop :=
  ∀ s : State,
    (s.clock.freeLatch = true → freePlay s = s) ∧
    (s.clock.freeLatch = false →
      ∃ m, (if s.seq.pendRel = none then m = s.withClock { s.clock with freeLatch := true }
          else StepReleased (s.withClock { s.clock with freeLatch := true }) m) ∧
        (if s.arp.pendRel = none then freePlay s = m else ArpReleased m (freePlay s)))

/-! ## The sequencer -/

/-- R305, R308. That the draw of the random mode takes one word from the head of those RND supplies is the model's choice
(log 5). -/
def Obligations.BankModeCuesTheNextSequence : Prop :=
  ∀ (s : State) (data : DataField),
    exec (.setBankMode data) s = .next (cueNextSeq (s.withSeq { s.seq with
      bankMode := [BankMode.none, .loop2, .loop4, .loop8, .random].getD (min 4 data.toNat) .random })) ∧
    ∃ q : Fin 8,
      cueNextSeq s = (s.withSeq { s.seq with sel := q }).withInputs
        (if s.seq.bankMode = .random then
          { s.inputs with rnd := s.inputs.rnd.drop 1, drawCount := s.inputs.drawCount + 1 }
        else s.inputs) ∧
      (s.seq.bankMode = .none → q = s.seq.sel) ∧
      (s.seq.bankMode = .loop2 → q.val = if s.seq.cur.val % 2 = 0 then s.seq.cur.val + 1 else s.seq.cur.val - 1) ∧
      (s.seq.bankMode = .loop4 → q.val = 4 * (s.seq.cur.val / 4) + (s.seq.cur.val + 1) % 4) ∧
      (s.seq.bankMode = .loop8 → q.val = (s.seq.cur.val + 1) % 8) ∧
      (s.seq.bankMode = .random → q ≠ s.seq.cur)

/-- R306, 48_arpeggiator R350: on a tick the swing is recomputed at pulse 0, a release due now fires, and then the
step of pulse 0 or of the swung second half is played. -/
def Obligations.DispatchReleasesBeforeStepping : Prop :=
  ∀ s : State,
    let w := if s.clock.pulse = 0 then
        s.withClock { s.clock with swingOffset := s.mem.seq[s.seq.cur].swing * (s.clock.div / 2) / s.params.swingMax }
      else s
    (∃ m, (if s.seq.pendRel = some s.clock.pulse then StepReleased w m else m = w) ∧
      seqDispatch s =
        if s.clock.pulse = 0 ∨ s.clock.pulse = s.clock.div + w.clock.swingOffset then seqNextStep m else some m) ∧
    (∃ m, (if s.arp.pendRel = some s.clock.pulse then ArpReleased w m else m = w) ∧
      arpDispatch s =
        if (s.clock.pulse = 0 ∨ s.clock.pulse = s.clock.div + w.clock.swingOffset) ∧ s.arp.raw ≠ [] then arpStep m
        else m)

/-- R330: one field of one Sequence record. -/
def Obligations.SeqWriteEditsOneField : Prop :=
  ∀ (s : State) (q : Fin 8) (sel : SelField) (field sub step : BitVec 4) (data : DataField),
    sel.toNat = q.val →
    let S := s.mem.seq[q]
    let t := step.toFin
    let answer := fun S' : Sequence =>
      exec (.seqWrite sel field sub step data) s = .next (s.withMem { s.mem with seq := s.mem.seq.set q S' })
    (∀ u : Fin 4, field.toNat = 0 → sub.toNat = u.val → answer { S with
      notes := S.notes.set u (S.notes[u].set t
        (if data = 0x80000000 then none else some (within s.params.noteMin s.params.noteMax data.toInt))) }) ∧
    (field.toNat = 1 → answer { S with tie := S.tie.set t (decide (data ≠ 0)) }) ∧
    (field.toNat = 2 → answer { S with mute := S.mute.set t (decide (data ≠ 0)) }) ∧
    (field.toNat = 3 → answer { S with vel := S.vel.set t (min 127 (uData data)) }) ∧
    (∀ u : Fin 4, field.toNat = 4 → sub.toNat = u.val → answer { S with
      ccNum := S.ccNum.set u (min 127 data.toNat) }) ∧
    (∀ u : Fin 4, field.toNat = 5 → sub.toNat = u.val → answer { S with
      ccVal := S.ccVal.set u (S.ccVal[u].set t (min 127 data.toNat)) }) ∧
    (field.toNat = 0 ∨ field.toNat = 4 ∨ field.toNat = 5 → 4 ≤ sub.toNat →
      exec (.seqWrite sel field sub step data) s = .next s) ∧
    (6 ≤ field.toNat → exec (.seqWrite sel field sub step data) s = .next s)

/-- R331, R332, R333: parameters, copy and clear; the step of the current sequence stays inside its pattern. -/
def Obligations.SequenceEditsKeepTheStepInside : Prop :=
  ∀ (s : State) (q b : Fin 8) (sel : SelField) (addr : AddrField) (data : DataField), sel.toNat = q.val →
    let S := s.mem.seq[q]
    let put := fun (k : Fin 8) (S' : Sequence) => s.withMem { s.mem with seq := s.mem.seq.set k S' }
    let reduced := fun (k : Fin 8) (len : Nat) (x : Transport) =>
      if k = s.seq.cur then { x with step := x.step % len } else x
    let param := exec (.seqSetParam sel addr data) s
    (addr.toNat = 0 → param = .next (put q { S with noteDuration := min 1023 data.toNat })) ∧
    (addr.toNat = 1 → param = .next (put q { S with divSelection := min 3 data.toNat })) ∧
    (addr.toNat = 2 → param = .next ((put q { S with patternLength := max 1 (min 16 data.toNat) }).withSeq
      (reduced q (max 1 (min 16 data.toNat)) s.seq))) ∧
    (addr.toNat = 3 → param = .next (put q { S with transpose := within (-48) 48 data.toInt })) ∧
    (addr.toNat = 4 → param = .next (put q { S with swing := min s.params.swingMax data.toNat })) ∧
    (addr.toNat = 5 → param = .next (put q { S with bpm := max 20 (min 320 data.toNat) })) ∧
    (6 ≤ addr.toNat → param = .next s) ∧
    (addr.toNat = b.val → exec (.seqCopy sel addr) s = .next ((put b S).withSeq
      (reduced b S.patternLength { s.seq with src := q, dst := b }))) ∧
    ∃ C : Sequence, exec (.seqClear sel) s = .next ((put q C).withSeq (reduced q 16 s.seq)) ∧
      (∀ (v : Fin 4) (t : Fin 16), C.notes[v][t] = none) ∧
      (∀ t : Fin 16, C.tie[t] = false ∧ C.mute[t] = false ∧ C.vel[t] = 100) ∧
      (∀ c : Fin 4, C.ccNum[c] = 0 ∧ ∀ t : Fin 16, C.ccVal[c][t] = 0) ∧
      C.noteDuration = 6 ∧ C.divSelection = 2 ∧ C.patternLength = 16 ∧ C.transpose = 0 ∧ C.swing = 0 ∧ C.bpm = 120

/-- R307, R309, R310, R312, R313, R314: one sequencer step. By the model's choice a draw takes one word from the head of
those RND supplies (log 5), and a duration map that the configuration leaves to the implementation is a free function
(log 8). -/
def Obligations.SequencerStepAdvancesThePattern : Prop :=
  ∀ s0 : State, Inv s0 →
    let s := if s0.seq.step = 0 ∧ s0.seq.sel ≠ s0.seq.cur then
        cueNextSeq (sequenceTempo (s0.withSeq { s0.seq with cur := s0.seq.sel }))
      else s0
    let S := s.mem.seq[s.seq.cur]
    let len := S.patternLength
    let t := s.seq.step
    let dur := if s.params.seqDurMap = .identity then S.noteDuration
      else Config.durationMap S.noteDuration s.clock.div
    let drawn := { s.inputs with rnd := s.inputs.rnd.drop 1, drawCount := s.inputs.drawCount + 1 }
    let due := some ((s.clock.pulse + max 1 (min (2 * s.clock.div - 1) dur)) % (2 * s.clock.div))
    ∃ (incr : Int) (m : State) (a nxt : Fin 16) (played : State),
      a.val = t ∧ (nxt.val : Int) = ((t : Int) + incr) % (len : Int) ∧
      (s.seq.playMode = .forward → incr = 1 ∧ m = s) ∧
      (s.seq.playMode = .reverse → incr = -1 ∧ m = s) ∧
      (s.seq.playMode = .pendulum →
        incr = (if t = 0 then 1 else if len - 1 ≤ t then -1 else s.seq.dir) ∧
        m = s.withSeq { s.seq with dir := incr }) ∧
      (s.seq.playMode = .randomInterval → t ≠ 0 → incr = s.seq.mag ∧ m = s) ∧
      ((s.seq.playMode = .randomInterval ∧ t = 0) ∨ s.seq.playMode = .random →
        1 ≤ incr ∧ incr ≤ max 1 ((len : Int) - 1) ∧
        m = (s.withInputs drawn).withSeq { s.seq with mag := incr }) ∧
      (s.seq.playMode = .drunk →
        (incr = 1 ∨ incr = -1) ∧
        m = (s.withInputs drawn).withSeq { s.seq with dir := incr }) ∧
      played =
        (if S.mute[a] then
          m.withSeq { m.seq with pendRel := m.seq.pendRel.map fun p => (p + 1) % (2 * s.clock.div) }
        else if S.tie[a] then
          (if S.tie[nxt] then m else m.withSeq { m.seq with pendRel := due })
        else stepPlay a nxt m) ∧
      seqNextStep s0 = some (played.withSeq { played.seq with step := nxt.val })

/-- R311, R317: what a step that is neither muted nor tied does. A duration map that the configuration leaves to the
implementation is the model's free function (log 8). -/
def Obligations.StepPlayAssignsTriggersAndEchoes : Prop :=
  (Params.standard.seqDurMap = .identity) ∧
  ∀ (s : State) (a nxt : Fin 16), 0 < s.clock.div →
    let S := s.mem.seq[s.seq.cur]
    let note := fun v : Fin 4 => S.notes[v][a].map fun n => within s.params.noteMin s.params.noteMax (n + S.transpose)
    let dur := if s.params.seqDurMap = .identity then S.noteDuration
      else Config.durationMap S.noteDuration s.clock.div
    let t := stepPlay a nxt s
    (let given := noteOrMute 3 (note 3) (noteOrMute 2 (note 2) (noteOrMute 1 (note 1) (noteOrMute 0 (note 0) s)))
     let m := (given.withOutbox { s.outbox with seqNotes := #v[note 0, note 1, note 2, note 3] }).withSeq t.seq
     ((∀ v, note v = none) → t = m) ∧
     ((∃ v, note v ≠ none) → ∃ r, Triggered S.vel[a] m r ∧ t = r.withOutbox t.outbox)) ∧
    (∀ v : Fin 4, t.outbox.seqNotes[v] = note v ∧ t.voices[v].note = note v ∧
      t.voices[v].key = s.voices[v].key ∧
      (note v ≠ none → t.voices[v].sounding = true ∧ t.voices[v].muteOnTrig = false)) ∧
    t.seq = { s.seq with
      pendRel := if S.tie[nxt] then none
        else some ((s.clock.pulse + max 1 (min (2 * s.clock.div - 1) dur)) % (2 * s.clock.div)) } ∧
    ((∃ v, note v ≠ none) →
      t.outbox = { s.outbox with
        seqNotes := t.outbox.seqNotes, seqOn := some { notes := t.outbox.seqNotes, vel := S.vel[a] } } ∧
      t.env.pendVel = S.vel[a] ∧ (t.env.stage = .attack ∨ t.env.trigPending = true)) ∧
    ((∀ v, note v = none) →
      t.outbox = { s.outbox with seqNotes := t.outbox.seqNotes } ∧ t.env = s.env ∧
      ∀ v : Fin 4, t.voices[v].muteOnTrig = true ∧ t.voices[v].sounding = s.voices[v].sounding) ∧
    t.mem = s.mem ∧ t.clock = s.clock ∧ t.arp = s.arp ∧ t.alloc = s.alloc ∧ t.ports = s.ports ∧
    t.params = s.params ∧ t.inputs = s.inputs ∧ t.engines = s.engines ∧ t.mixer = s.mixer ∧ t.status = s.status

/-! ## The arpeggiator -/

/-- R341, R349, 49_voice_allocator R389. -/
def Obligations.ArpEnableSwitchesAndClears : Prop :=
  ∀ (s : State) (data : DataField),
    let clear := fun a : Arp => { a with
      raw := [], sorted := [], len := 0, pos := 0, oct := a.octRange, fresh := true, back := false, restart := false }
    ((data ≠ 0 ↔ s.arp.on = true) → exec (.arpEnable data) s = .next s) ∧
    (data ≠ 0 → s.arp.on = false → ∃ (voices : Vector Voice 4) (m : State),
      (∀ v : Fin 4, voices[v] = { s.voices[v] with key := none }) ∧
      (let freed := (s.withVoices voices).withAlloc { s.alloc with held := [] }
       if (∃ v : Fin 4, s.voices[v].key ≠ none) ∨ s.alloc.held ≠ [] then Released freed m else m = freed) ∧
      exec (.arpEnable data) s = .next (m.withArp { clear s.arp with on := true })) ∧
    (data = 0 → s.arp.on = true → ∃ m : State,
      (let off := s.withArp { s.arp with on := false }
       if s.arp.pendRel = none then m = off else ArpReleased off m) ∧
      exec (.arpEnable data) s = .next (m.withArp (clear m.arp)))

/-- R351: KEY_ON and KEY_OFF while the arpeggiator is on keep the list of held notes, without
repeats, in order of arrival. -/
def Obligations.ArpKeysKeepTheHeldList : Prop :=
  ∀ (s : State) (addr : AddrField) (data : DataField), s.arp.on = true →
    let k := within s.params.noteMin s.params.noteMax addr.toInt
    let vel := min 127 (uData data)
    let fresh := fun a : Arp =>
      { a with pos := 0, oct := a.octRange, fresh := true, back := false, restart := false }
    (k ∈ s.arp.raw → exec (.keyOn addr data) s = .next (s.withArp { s.arp with vel := vel })) ∧
    (k ∉ s.arp.raw → s.arp.raw.length = 10 → exec (.keyOn addr data) s = .next s) ∧
    (k ∉ s.arp.raw → s.arp.raw.length ≠ 10 →
      let a := if s.arp.raw = [] then fresh s.arp else s.arp
      exec (.keyOn addr data) s = .next (s.withArp { a with
        vel := vel
        raw := s.arp.raw ++ [k]
        sorted := sortNotes s.arp.source s.arp.dir (s.arp.raw ++ [k]) s.arp.sorted
        len := s.arp.raw.length + 1 })) ∧
    (k ∉ s.arp.raw → exec (.keyOff addr) s = .next s) ∧
    (∀ l r, s.arp.raw = l ++ k :: r → k ∉ l →
      exec (.keyOff addr) s = .next (s.withArp { s.arp with
        raw := l ++ r
        sorted := sortNotes s.arp.source s.arp.dir (l ++ r) s.arp.sorted
        len := (l ++ r).length }))

/-- R354. That the draw of the random mode takes one word from the head of those RND supplies is the model's choice
(log 5). -/
def Obligations.ArpPositionAdvancesByStepMode : Prop :=
  ∀ (s : State) (n : Nat), 0 < n →
    let a := s.arp
    let p := min a.pos (n - 1)
    (a.stepMode = .step1 → arpAdvance n s = s.withArp { a with pos := (a.pos + 1) % n }) ∧
    (a.stepMode = .step2 → arpAdvance n s = s.withArp { a with pos := (a.pos + 2) % n }) ∧
    (a.stepMode = .step3 → arpAdvance n s = s.withArp { a with pos := (a.pos + 3) % n }) ∧
    (a.stepMode = .random → ∃ q : Nat, q < n ∧
      arpAdvance n s = (s.withInputs
        { s.inputs with rnd := s.inputs.rnd.drop 1, drawCount := s.inputs.drawCount + 1 }).withArp { a with pos := q }) ∧
    (a.stepMode = .twoForwardOneBack →
      (a.fresh = true →
        arpAdvance n s = s.withArp { a with pos := 0, fresh := false, back := false, restart := false }) ∧
      (a.fresh = false → a.back = false → p + 2 ≤ n - 1 →
        arpAdvance n s = s.withArp { a with pos := p + 2, back := true }) ∧
      (a.fresh = false → a.back = false → n - 1 < p + 2 →
        arpAdvance n s = s.withArp { a with pos := n - 1, back := true, restart := true }) ∧
      (a.fresh = false → a.back = true →
        arpAdvance n s = s.withArp { a with pos := p - 1, back := false, fresh := a.restart, restart := false }))

/-- R353, R355, R356: an arpeggio step plays the note at the position it advanced to. -/
def Obligations.ArpStepPlaysTheNextNote : Prop :=
  ∀ s : State,
    let m := arpAdvance s.arp.raw.length (s.withArp
      (if s.arp.pos = 0 then { s.arp with oct := (s.arp.oct + 1) % (s.arp.octRange + 1) } else s.arp))
    let t := arpStep s
    (m.arp.sorted[m.arp.pos]? = none → t = m) ∧
    ∀ k, m.arp.sorted[m.arp.pos]? = some k →
      let note := within s.params.noteMin s.params.noteMax (k + 12 * (m.arp.oct : Int))
      (let given := if s.arp.mono then unisonGiven note m else setNote 0 (some note) m
       ∃ r, Triggered s.arp.vel ((given.withOutbox t.outbox).withArp { m.arp with note := some note }) r ∧
         t = r.withArp t.arp) ∧
      t.arp = { m.arp with
        note := some note, pendRel := some ((s.clock.pulse + s.arp.dur) % (2 * s.clock.div)) } ∧
      t.outbox = { s.outbox with
        arpOn := some (note, s.arp.vel)
        arpOff := if s.arp.note ≠ none then s.arp.note else s.outbox.arpOff } ∧
      t.env.pendVel = s.arp.vel ∧ (t.env.stage = .attack ∨ t.env.trigPending = true) ∧
      (∀ v : Fin 4, v = 0 ∨ (s.arp.mono = true ∧ v.val ≤ s.alloc.unisonCount) →
        t.voices[v].note = some note ∧ t.voices[v].sounding = true) ∧
      (∀ v : Fin 4, s.arp.mono = true → v.val ≠ 0 → s.alloc.unisonCount < v.val → t.voices[v].note = none) ∧
      (∀ v : Fin 4, s.arp.mono = false → v ≠ 0 → t.voices[v].note = s.voices[v].note) ∧
      t.mem = s.mem ∧ t.clock = s.clock ∧ t.seq = s.seq ∧ t.alloc = s.alloc ∧ t.ports = s.ports ∧
      t.params = s.params ∧ t.inputs = m.inputs

/-! ## The voice allocator -/

/-- R374, R381. -/
def Obligations.SetVoiceGivesOrTakesANote : Prop :=
  (∀ (s : State) (v : Fin 4),
    (∀ n, NoteGiven v n s (setNote v (some n) s)) ∧
    setNote v none s = deriveIncrements (s.withVoices (s.voices.set v { s.voices[v] with note := none }))) ∧
  ∀ (s : State) (v : Fin 4) (sel : SelField) (data : DataField), sel.toNat = v.val →
    (data ≠ 0x80000000 → ∃ t, exec (.setVoice sel data) s = .next t ∧
      NoteGiven v (within s.params.noteMin s.params.noteMax data.toInt) s t) ∧
    (data = 0x80000000 → ∃ m, m = deriveIncrements (s.withVoices (s.voices.set v { s.voices[v] with note := none })) ∧
      exec (.setVoice sel data) s = .next (m.withVoices (m.voices.set v { m.voices[v] with sounding := false })))

/-- R377, R389. -/
def Obligations.SetVoiceModeLetsGoOfHeldKeys : Prop :=
  ∀ (s : State) (data : DataField),
    let mode := [VoiceMode.paraphonic, .monoHighest, .monoLowest, .monoLast].getD (min 3 data.toNat) .monoLast
    (mode = s.alloc.voiceMode → exec (.setVoiceMode data) s = .next s) ∧
    (mode ≠ s.alloc.voiceMode → ∃ (voices : Vector Voice 4) (m : State),
      (∀ v : Fin 4, voices[v] = { s.voices[v] with key := none }) ∧
      (let freed := (s.withVoices voices).withAlloc { s.alloc with held := [] }
       if (∃ v : Fin 4, s.voices[v].key ≠ none) ∨ s.alloc.held ≠ [] then Released freed m else m = freed) ∧
      exec (.setVoiceMode data) s = .next (deriveIncrements (updateUnison
        (m.withAlloc { s.alloc with held := [], voiceMode := mode }))))

/-- R382: KEY_ON in paraphonic mode, outside edit mode and with the arpeggiator off. -/
def Obligations.ParaphonicKeyOnTakesTheLowestFreeVoice : Prop :=
  ∀ (s : State) (addr : AddrField) (data : DataField),
    s.arp.on = false → s.alloc.voiceMode = .paraphonic → s.seq.edit = false → KeysDistinct s.voices →
    let k := within s.params.noteMin s.params.noteMax addr.toInt
    let vel := min 127 (uData data)
    (∀ v : Fin 4, s.voices[v].key = some k →
      ∃ m t, NoteGiven v k s m ∧ Triggered vel m t ∧ exec (.keyOn addr data) s = .next t) ∧
    ((∀ v : Fin 4, s.voices[v].key ≠ some k ∧ s.voices[v].key ≠ none) → exec (.keyOn addr data) s = .next s) ∧
    (∀ v : Fin 4, (∀ u : Fin 4, s.voices[u].key ≠ some k) → s.voices[v].key = none →
      (∀ u : Fin 4, u < v → s.voices[u].key ≠ none) →
      ∃ (m t : State) (marked : Vector Voice 4),
        NoteGiven v k (s.withVoices (s.voices.set v { s.voices[v] with key := some k })) m ∧
        (∀ u : Fin 4, marked[u] =
          if u ≠ v ∧ ∀ w : Fin 4, s.voices[w].key = none then { m.voices[u] with muteOnTrig := true }
          else m.voices[u]) ∧
        Triggered vel (m.withVoices marked) t ∧ exec (.keyOn addr data) s = .next t)

/-- R384: KEY_OFF in paraphonic mode with the arpeggiator off. -/
def Obligations.ParaphonicKeyOffFreesTheVoice : Prop :=
  ∀ (s : State) (addr : AddrField),
    s.arp.on = false → s.alloc.voiceMode = .paraphonic → KeysDistinct s.voices →
    let k := within s.params.noteMin s.params.noteMax addr.toInt
    ((∀ v : Fin 4, s.voices[v].key ≠ some k) → exec (.keyOff addr) s = .next s) ∧
    ∀ v : Fin 4, s.voices[v].key = some k →
      ((∃ u : Fin 4, u ≠ v ∧ s.voices[u].key ≠ none) →
        ∃ m, m = deriveIncrements (s.withVoices (s.voices.set v { s.voices[v] with key := none, note := none })) ∧
          exec (.keyOff addr) s = .next (m.withVoices (m.voices.set v { m.voices[v] with sounding := false }))) ∧
      ((∀ u : Fin 4, u ≠ v → s.voices[u].key = none) →
        ∃ t, Released (s.withVoices (s.voices.set v { s.voices[v] with key := none })) t ∧
          exec (.keyOff addr) s = .next t)

/-- R385, R386, R387, R388: which key a mono mode plays, and what assigning it to the mono voice leaves. A KEY_ON
in edit mode is also captured (O60); KEY_OFF is the same in and outside edit mode. -/
def Obligations.MonoKeysFollowThePriority : Prop :=
  (∀ (s : State) (addr : AddrField) (data : DataField), s.arp.on = false → s.alloc.voiceMode ≠ .paraphonic →
    let k := within s.params.noteMin s.params.noteMax addr.toInt
    let others := s.alloc.held.filter (· ≠ k)
    let wins := fun (x : Note) (l : List Note) =>
      (s.alloc.voiceMode = .monoHighest → x ∈ l ∧ ∀ y ∈ l, y ≤ x) ∧
      (s.alloc.voiceMode = .monoLowest → x ∈ l ∧ ∀ y ∈ l, x ≤ y) ∧
      (s.alloc.voiceMode = .monoLast → ∃ r, l = r ++ [x])
    s.alloc.held.Nodup → s.alloc.held.length ≤ s.params.heldCap →
    (s.seq.edit = false →
     let held := (if others.length = s.params.heldCap then others.tail else others) ++ [k]
     let m := s.withAlloc { s.alloc with held := held }
     (wins k held → ∃ t, Triggered (min 127 (uData data)) (monoAssign k m) t ∧ exec (.keyOn addr data) s = .next t) ∧
     (¬ wins k held → exec (.keyOn addr data) s = .next m)) ∧
    (k ∉ s.alloc.held → exec (.keyOff addr) s = .next s) ∧
    (k ∈ s.alloc.held →
      let m := s.withAlloc { s.alloc with held := others }
      (others = [] → ∃ t, Released (m.withVoices (m.voices.set 0 { m.voices[0] with key := none })) t ∧
        exec (.keyOff addr) s = .next t) ∧
      ∀ w, wins w others → exec (.keyOff addr) s =
        .next (if s.voices[0].key = some w then m else monoAssign w m))) ∧
  ∀ (s : State) (k : Note) (v : Fin 4),
    (∃ voices : Vector Voice 4, (∀ u : Fin 4, voices[u] = { s.voices[u] with key := if u = 0 then some k else none }) ∧
      monoAssign k s = unisonGiven k (s.withVoices voices)) ∧
    (monoAssign k s).voices[v].key = (if v = 0 then some k else none) ∧
    (v.val ≤ s.alloc.unisonCount →
      (monoAssign k s).voices[v].note = some k ∧ (monoAssign k s).voices[v].sounding = true ∧
      (monoAssign k s).voices[v].muteOnTrig = false) ∧
    (s.alloc.unisonCount < v.val →
      (monoAssign k s).voices[v].note = none ∧ (monoAssign k s).voices[v].muteOnTrig = true ∧
      (monoAssign k s).voices[v].sounding = s.voices[v].sounding) ∧
    monoAssign k s = (s.withOsc (monoAssign k s).osc).withVoices (monoAssign k s).voices

/-- R335: in edit mode a handled KEY_ON is captured into the edit step of the selected sequence. -/
def Obligations.EditModeCapturesHeldNotes : Prop :=
  ∀ (s : State) (addr : AddrField) (data : DataField), s.arp.on = false → s.seq.edit = true →
    ∃ (m : State) (S : Sequence),
      exec (.keyOn addr data) (s.withSeq { s.seq with edit := false }) = .next m ∧
      exec (.keyOn addr data) s = .next ((m.withSeq s.seq).withMem { s.mem with seq := s.mem.seq.set s.seq.sel S }) ∧
      (∀ (v : Fin 4) (t : Fin 16), S.notes[v][t] =
        if t = s.seq.editStep then
          (if m.voices[v].sounding = true ∧ m.voices[v].muteOnTrig = false then m.voices[v].note else none)
        else s.mem.seq[s.seq.sel].notes[v][t]) ∧
      S = { s.mem.seq[s.seq.sel] with notes := S.notes }
end

