-- ==== Sys2Proof/Laws/Arith.lean ====
section
/-! SUPPORT. Bounds of the arithmetic primitives and of the operand forms: what each of them can answer. -/

namespace Sys2Proof.Machine

/-! ## Primitives -/

theorem clamp_bounds {lo hi : Int} (h : lo ≤ hi) (v : Int) : lo ≤ clamp lo hi v ∧ clamp lo hi v ≤ hi := by
  unfold clamp; split <;> (try split) <;> omega

theorem clamp_eq_self {lo hi v : Int} (h1 : lo ≤ v) (h2 : v ≤ hi) : clamp lo hi v = v := by
  unfold clamp; split <;> (try split) <;> omega

/-- A clamp is a maximum and a minimum. -/
theorem clamp_eq_max_min {lo hi : Int} (h : lo ≤ hi) (v : Int) : clamp lo hi v = max lo (min hi v) := by
  unfold clamp; split <;> (try split) <;> omega

theorem clampNat_bounds {lo hi : Nat} (h : lo ≤ hi) (v : Nat) : lo ≤ clampNat lo hi v ∧ clampNat lo hi v ≤ hi := by
  unfold clampNat; split <;> (try split) <;> omega

theorem clampNat_eq_max_min {lo hi : Nat} (h : lo ≤ hi) (v : Nat) : clampNat lo hi v = max lo (min hi v) := by
  unfold clampNat; split <;> (try split) <;> omega

/-- An arithmetic shift right is a division that floors. -/
theorem asr_eq (a : Int) (k : Nat) : asr a k = a / 2 ^ k := rfl

theorem asr_bounds {a lo hi : Int} {k : Nat} (h1 : lo * 2 ^ k ≤ a) (h2 : a < (hi + 1) * 2 ^ k) :
    lo ≤ asr a k ∧ asr a k ≤ hi := by
  have hk : (0 : Int) < 2 ^ k := by positivity
  exact ⟨(Int.le_ediv_iff_mul_le hk).2 h1, Int.lt_add_one_iff.1 ((Int.ediv_lt_iff_lt_mul hk).2 h2)⟩

/-- A larger shift of a number that is not negative gives no more. -/
theorem asr_mono {a : Int} {j k : Nat} (ha : 0 ≤ a) (h : j ≤ k) : 0 ≤ asr a k ∧ asr a k ≤ asr a j := by
  have hj : (0 : Int) < 2 ^ j := by positivity
  have hk : (0 : Int) < 2 ^ k := by positivity
  refine ⟨Int.ediv_nonneg ha hk.le, ?_⟩
  rw [asr, asr, Int.le_ediv_iff_mul_le hj]
  have h1 : a / 2 ^ k * 2 ^ k ≤ a := Int.ediv_mul_le _ hk.ne'
  have h2 : 0 ≤ a / 2 ^ k := Int.ediv_nonneg ha hk.le
  have h3 : (2 : Int) ^ j ≤ 2 ^ k := pow_le_pow_right₀ (by norm_num) h
  nlinarith

/-- A centred multiply of a sample by a gain word is a sample (00_scope R12). -/
theorem cmul_isSample {x g : Int} (hx : IsSample x) (hg : IsGain g) : IsSample (cmul x g) := by
  obtain ⟨hx0, hx1⟩ := hx
  obtain ⟨hg0, hg1⟩ := hg
  have := asr_bounds (a := (x - 2048) * g) (lo := -2048) (hi := 2047) (k := 10) (by nlinarith) (by nlinarith)
  simp only [IsSample, cmul, Config.centre]
  omega

/-- A centred multiply keeps silence. -/
@[simp] theorem cmul_centre (g : Int) : cmul 2048 g = 2048 := by simp [cmul, asr]

/-- A point of a ramp lies between its ends (42_envelope R190). -/
theorem lerp_bounds {a b lo hi : Int} {el dur : Nat} (ha : lo ≤ a ∧ a ≤ hi) (hb : lo ≤ b ∧ b ≤ hi) (h : el < dur) :
    lo ≤ lerp a b el dur ∧ lerp a b el dur ≤ hi := by
  have hd : (0 : Int) < dur := by omega
  have hel : (0 : Int) ≤ el := by omega
  have hlt : (el : Int) < dur := by omega
  unfold lerp
  rcases le_total a b with hab | hab
  · have h1 : 0 ≤ (b - a) * (el : Int) / dur := Int.ediv_nonneg (by nlinarith) (by omega)
    have h2 : (b - a) * (el : Int) / dur ≤ b - a := by
      rw [Int.ediv_le_iff_le_mul hd]; nlinarith
    omega
  · have h1 : (b - a) * (el : Int) / dur ≤ 0 := by
      rw [Int.ediv_le_iff_le_mul hd]; nlinarith
    have h2 : b - a ≤ (b - a) * (el : Int) / dur := by
      rw [Int.le_ediv_iff_mul_le hd]; nlinarith
    omega

theorem elapsed_lt (now t0 : Time) : elapsed now t0 < 2 ^ 32 := (now - t0).isLt

theorem wrap32_isWord32 (v : Int) : IsWord32 (wrap32 v) := by
  simp only [IsWord32, wrap32]; omega

theorem wrap32_eq_self {v : Int} (h : IsWord32 v) : wrap32 v = v := by
  simp only [IsWord32] at h; simp only [wrap32]; omega

/-- A draw lies in its range (00_scope R14). -/
theorem drawValue_bounds {lo hi : Int} (h : lo ≤ hi) (w : Sample) : lo ≤ drawValue lo hi w ∧ drawValue lo hi w ≤ hi := by
  unfold drawValue
  split
  · assumption
  · have := Int.emod_nonneg (w.toNat : Int) (b := hi - lo + 1) (by omega)
    have := Int.emod_lt_of_pos (w.toNat : Int) (b := hi - lo + 1) (by omega)
    omega

theorem draw_bounds {lo hi : Int} (h : lo ≤ hi) (s : State) : lo ≤ (draw lo hi s).1 ∧ (draw lo hi s).1 ≤ hi :=
  drawValue_bounds h _

@[simp] theorem draw_snd (lo hi : Int) (s : State) : (draw lo hi s).2 = s.withInputs s.inputs.afterDraw := rfl

/-! ## The configuration -/

/-- The default configuration is legal. -/
theorem standard_legal : Params.standard.Legal where
  rates := by decide
  frac := by decide
  incMax := by decide
  notes := by decide
  noteRef := by decide
  incTable := by decide +kernel
  oct := by decide
  detune := by decide
  spread := by decide
  bitMunch := by decide
  gainSlope := by decide
  shaper := by decide
  ramp := by decide
  click := by decide
  fx := by decide
  ticks := by decide
  ui := by decide
  heldCap := by decide
  div := by decide
  swing := by decide
  lfoAmp := by decide
  envCut := by decide
  velPitch := by decide
  velCut := by decide
  velPw := by decide
  syncPulses := by decide
  syncEighths := by decide

/-- A cycle is one entry of a wavetable, 600 times. -/
theorem fracUnit_pos (p : Params) : 0 < p.fracUnit := by
  unfold Params.fracUnit
  have : 0 < 2 ^ p.fracBits := by positivity
  omega

theorem coefMax_nonneg (p : Params) : 0 ≤ p.coefMax := by
  unfold Params.coefMax
  have : 0 < 2 ^ p.fxShift := by positivity
  omega

/-! ## Samples -/

theorem sample_isSample (x : Sample) : IsSample (x.toNat : Int) := by
  have := x.isLt
  simp only [IsSample]; omega

/-- A number in 0..4095 stored as a sample reads back as itself. -/
theorem ofInt_sample {x : Int} (h : IsSample x) : ((BitVec.ofInt 12 x).toNat : Int) = x := by
  obtain ⟨h0, h1⟩ := h
  rw [BitVec.toNat_ofInt, Int.toNat_of_nonneg (by omega)]
  omega

/-! ## Operands (30_encoding R104, R105) -/

theorem uOperand_bounds {lo hi : Int} (h : lo ≤ hi) (data : DataField) :
    lo ≤ uOperand lo hi data ∧ uOperand lo hi data ≤ hi := clamp_bounds h _

theorem sOperand_bounds {lo hi : Int} (h : lo ≤ hi) (data : DataField) :
    lo ≤ sOperand lo hi data ∧ sOperand lo hi data ≤ hi := clamp_bounds h _

theorem countOperand_bounds {lo hi : Nat} (h : lo ≤ hi) (data : DataField) :
    lo ≤ countOperand lo hi data ∧ countOperand lo hi data ≤ hi := clampNat_bounds h _

theorem uOperand_isGain (data : DataField) : IsGain (uOperand 0 Config.gainMax data) :=
  uOperand_bounds (by decide) data

theorem velOperand_isVel (data : DataField) : IsVel (velOperand data) := uOperand_bounds (by decide) data

theorem durationOperand_lt (data : DataField) : durationOperand data < 2 ^ 32 := data.isLt

theorem clampNote_isNote {p : Params} (hp : p.Legal) (n : Int) : IsNote p (clampNote p n) :=
  clamp_bounds hp.notes.2.1 n

theorem noteOperand_isNote {p : Params} (hp : p.Legal) (addr : AddrField) : IsNote p (noteOperand p addr) :=
  clampNote_isNote hp _

theorem optNoteOperand_ok {p : Params} (hp : p.Legal) (data : DataField) : OptNote p (optNoteOperand p data) := by
  intro n hn
  unfold optNoteOperand at hn
  split at hn
  · cases hn
  · cases hn; exact clampNote_isNote hp _

/-- A selector names a thing exactly where it is below their number (30_encoding R106). -/
theorem selOperand_eq_none {n : Nat} {sel : SelField} : selOperand n sel = none ↔ n ≤ sel.toNat := by
  unfold selOperand; split <;> simp <;> omega

theorem selOperand_val {n : Nat} {sel : SelField} {e : Fin n} (h : selOperand n sel = some e) : e.val = sel.toNat := by
  unfold selOperand at h; split at h
  · cases h; rfl
  · cases h

theorem addrOperand_eq_none {n : Nat} {addr : AddrField} : addrOperand n addr = none ↔ n ≤ addr.toNat := by
  unfold addrOperand; split <;> simp <;> omega

theorem addrOperand_val {n : Nat} {addr : AddrField} {e : Fin n} (h : addrOperand n addr = some e) :
    e.val = addr.toNat := by
  unfold addrOperand at h; split at h
  · cases h; rfl
  · cases h

theorem subOperand_eq_none {n : Nat} {sub : BitVec 4} : subOperand n sub = none ↔ n ≤ sub.toNat := by
  unfold subOperand; split <;> simp <;> omega

end Sys2Proof.Machine
end

