-- ==== Sys2Proof/Laws/Encoding.lean ====
section
/-! SUPPORT. The fields of a command word read back from the word they were packed into (30_encoding R101, R108). -/

namespace Sys2Proof

@[simp] theorem opOf_packWord (op : OpField) (sel : SelField) (addr : AddrField) (data : DataField) :
    opOf (packWord op sel addr data) = op := by
  apply BitVec.eq_of_getLsbD_eq
  intro i hi
  simp only [opOf, packWord, BitVec.getLsbD_extractLsb', BitVec.getLsbD_append, hi, decide_true, Bool.true_and]
  rw [if_neg (by omega), if_neg (by omega), if_neg (by omega)]
  congr 1; omega

@[simp] theorem selOf_packWord (op : OpField) (sel : SelField) (addr : AddrField) (data : DataField) :
    selOf (packWord op sel addr data) = sel := by
  apply BitVec.eq_of_getLsbD_eq
  intro i hi
  simp only [selOf, packWord, BitVec.getLsbD_extractLsb', BitVec.getLsbD_append, hi, decide_true, Bool.true_and]
  rw [if_neg (by omega), if_neg (by omega), if_pos (by omega)]
  congr 1; omega

@[simp] theorem addrOf_packWord (op : OpField) (sel : SelField) (addr : AddrField) (data : DataField) :
    addrOf (packWord op sel addr data) = addr := by
  apply BitVec.eq_of_getLsbD_eq
  intro i hi
  simp only [addrOf, packWord, BitVec.getLsbD_extractLsb', BitVec.getLsbD_append, hi, decide_true, Bool.true_and]
  rw [if_neg (by omega), if_pos (by omega)]
  congr 1; omega

@[simp] theorem dataOf_packWord (op : OpField) (sel : SelField) (addr : AddrField) (data : DataField) :
    dataOf (packWord op sel addr data) = data := by
  apply BitVec.eq_of_getLsbD_eq
  intro i hi
  simp only [dataOf, packWord, BitVec.getLsbD_extractLsb', BitVec.getLsbD_append, hi, decide_true, Bool.true_and]
  rw [if_pos (by omega)]
  congr 1; omega

@[simp] theorem seqFieldOf_packSeqAddr (field sub step : BitVec 4) :
    seqFieldOf (packSeqAddr field sub step) = field := by
  apply BitVec.eq_of_getLsbD_eq
  intro i hi
  simp only [seqFieldOf, packSeqAddr, BitVec.getLsbD_extractLsb', BitVec.getLsbD_append, hi, decide_true,
    Bool.true_and]
  rw [if_neg (by omega), if_neg (by omega), if_pos (by omega)]
  congr 1; omega

@[simp] theorem seqSubOf_packSeqAddr (field sub step : BitVec 4) :
    seqSubOf (packSeqAddr field sub step) = sub := by
  apply BitVec.eq_of_getLsbD_eq
  intro i hi
  simp only [seqSubOf, packSeqAddr, BitVec.getLsbD_extractLsb', BitVec.getLsbD_append, hi, decide_true,
    Bool.true_and]
  rw [if_neg (by omega), if_pos (by omega)]
  congr 1; omega

@[simp] theorem stepOf_packSeqAddr (field sub step : BitVec 4) : stepOf (packSeqAddr field sub step) = step := by
  apply BitVec.eq_of_getLsbD_eq
  intro i hi
  simp only [stepOf, packSeqAddr, BitVec.getLsbD_extractLsb', BitVec.getLsbD_append, hi, decide_true, Bool.true_and]
  rw [if_pos (by omega)]
  congr 1; omega

/-- A command word is its four fields (30_encoding R101). -/
theorem packWord_fields (w : CmdWord) : packWord (opOf w) (selOf w) (addrOf w) (dataOf w) = w := by
  apply BitVec.eq_of_getLsbD_eq
  intro i hi
  simp only [packWord, opOf, selOf, addrOf, dataOf, BitVec.getLsbD_append, BitVec.getLsbD_extractLsb']
  split
  · simp [*]
  · split
    · have : i - 32 < 16 := by omega
      simp only [this, decide_true, Bool.true_and]
      congr 1; omega
    · split
      · have : i - 32 - 16 < 8 := by omega
        simp only [this, decide_true, Bool.true_and]
        congr 1; omega
      · have : i - 32 - 16 - 8 < 8 := by omega
        simp only [this, decide_true, Bool.true_and]
        congr 1; omega

end Sys2Proof
end

