-- ==== Sys2Proof/Laws/State.lean ====
section
/-! SUPPORT. One lemma per part of the state per replacement: reading a part after a replacement gives the new value for
the part replaced and the old value for every other part. -/

namespace Sys2Proof.Machine

@[simp] theorem State.withOsc_osc (s : State) (x : Vector Osc 8) : (s.withOsc x).osc = x := rfl
@[simp] theorem State.withOsc_voices (s : State) (x : Vector Osc 8) : (s.withOsc x).voices = s.voices := rfl
@[simp] theorem State.withOsc_engines (s : State) (x : Vector Osc 8) : (s.withOsc x).engines = s.engines := rfl
@[simp] theorem State.withOsc_pw (s : State) (x : Vector Osc 8) : (s.withOsc x).pw = s.pw := rfl
@[simp] theorem State.withOsc_mixer (s : State) (x : Vector Osc 8) : (s.withOsc x).mixer = s.mixer := rfl
@[simp] theorem State.withOsc_env (s : State) (x : Vector Osc 8) : (s.withOsc x).env = s.env := rfl
@[simp] theorem State.withOsc_envMod (s : State) (x : Vector Osc 8) : (s.withOsc x).envMod = s.envMod := rfl
@[simp] theorem State.withOsc_lfo (s : State) (x : Vector Osc 8) : (s.withOsc x).lfo = s.lfo := rfl
@[simp] theorem State.withOsc_lfoMod (s : State) (x : Vector Osc 8) : (s.withOsc x).lfoMod = s.lfoMod := rfl
@[simp] theorem State.withOsc_qVel (s : State) (x : Vector Osc 8) : (s.withOsc x).qVel = s.qVel := rfl
@[simp] theorem State.withOsc_vel (s : State) (x : Vector Osc 8) : (s.withOsc x).vel = s.vel := rfl
@[simp] theorem State.withOsc_matrix (s : State) (x : Vector Osc 8) : (s.withOsc x).matrix = s.matrix := rfl
@[simp] theorem State.withOsc_ui (s : State) (x : Vector Osc 8) : (s.withOsc x).ui = s.ui := rfl
@[simp] theorem State.withOsc_filter (s : State) (x : Vector Osc 8) : (s.withOsc x).filter = s.filter := rfl
@[simp] theorem State.withOsc_shape (s : State) (x : Vector Osc 8) : (s.withOsc x).shape = s.shape := rfl
@[simp] theorem State.withOsc_alloc (s : State) (x : Vector Osc 8) : (s.withOsc x).alloc = s.alloc := rfl
@[simp] theorem State.withOsc_clock (s : State) (x : Vector Osc 8) : (s.withOsc x).clock = s.clock := rfl
@[simp] theorem State.withOsc_ext (s : State) (x : Vector Osc 8) : (s.withOsc x).ext = s.ext := rfl
@[simp] theorem State.withOsc_seq (s : State) (x : Vector Osc 8) : (s.withOsc x).seq = s.seq := rfl
@[simp] theorem State.withOsc_arp (s : State) (x : Vector Osc 8) : (s.withOsc x).arp = s.arp := rfl
@[simp] theorem State.withOsc_outbox (s : State) (x : Vector Osc 8) : (s.withOsc x).outbox = s.outbox := rfl
@[simp] theorem State.withOsc_status (s : State) (x : Vector Osc 8) : (s.withOsc x).status = s.status := rfl
@[simp] theorem State.withOsc_mem (s : State) (x : Vector Osc 8) : (s.withOsc x).mem = s.mem := rfl
@[simp] theorem State.withOsc_ports (s : State) (x : Vector Osc 8) : (s.withOsc x).ports = s.ports := rfl
@[simp] theorem State.withOsc_params (s : State) (x : Vector Osc 8) : (s.withOsc x).params = s.params := rfl
@[simp] theorem State.withOsc_inputs (s : State) (x : Vector Osc 8) : (s.withOsc x).inputs = s.inputs := rfl
@[simp] theorem State.withOsc_withOsc (s : State) (x y : Vector Osc 8) : (s.withOsc x).withOsc y = s.withOsc y := rfl
@[simp] theorem State.withOsc_self (s : State) : s.withOsc s.osc = s := rfl

@[simp] theorem State.withVoices_osc (s : State) (x : Vector Voice 4) : (s.withVoices x).osc = s.osc := rfl
@[simp] theorem State.withVoices_voices (s : State) (x : Vector Voice 4) : (s.withVoices x).voices = x := rfl
@[simp] theorem State.withVoices_engines (s : State) (x : Vector Voice 4) : (s.withVoices x).engines = s.engines := rfl
@[simp] theorem State.withVoices_pw (s : State) (x : Vector Voice 4) : (s.withVoices x).pw = s.pw := rfl
@[simp] theorem State.withVoices_mixer (s : State) (x : Vector Voice 4) : (s.withVoices x).mixer = s.mixer := rfl
@[simp] theorem State.withVoices_env (s : State) (x : Vector Voice 4) : (s.withVoices x).env = s.env := rfl
@[simp] theorem State.withVoices_envMod (s : State) (x : Vector Voice 4) : (s.withVoices x).envMod = s.envMod := rfl
@[simp] theorem State.withVoices_lfo (s : State) (x : Vector Voice 4) : (s.withVoices x).lfo = s.lfo := rfl
@[simp] theorem State.withVoices_lfoMod (s : State) (x : Vector Voice 4) : (s.withVoices x).lfoMod = s.lfoMod := rfl
@[simp] theorem State.withVoices_qVel (s : State) (x : Vector Voice 4) : (s.withVoices x).qVel = s.qVel := rfl
@[simp] theorem State.withVoices_vel (s : State) (x : Vector Voice 4) : (s.withVoices x).vel = s.vel := rfl
@[simp] theorem State.withVoices_matrix (s : State) (x : Vector Voice 4) : (s.withVoices x).matrix = s.matrix := rfl
@[simp] theorem State.withVoices_ui (s : State) (x : Vector Voice 4) : (s.withVoices x).ui = s.ui := rfl
@[simp] theorem State.withVoices_filter (s : State) (x : Vector Voice 4) : (s.withVoices x).filter = s.filter := rfl
@[simp] theorem State.withVoices_shape (s : State) (x : Vector Voice 4) : (s.withVoices x).shape = s.shape := rfl
@[simp] theorem State.withVoices_alloc (s : State) (x : Vector Voice 4) : (s.withVoices x).alloc = s.alloc := rfl
@[simp] theorem State.withVoices_clock (s : State) (x : Vector Voice 4) : (s.withVoices x).clock = s.clock := rfl
@[simp] theorem State.withVoices_ext (s : State) (x : Vector Voice 4) : (s.withVoices x).ext = s.ext := rfl
@[simp] theorem State.withVoices_seq (s : State) (x : Vector Voice 4) : (s.withVoices x).seq = s.seq := rfl
@[simp] theorem State.withVoices_arp (s : State) (x : Vector Voice 4) : (s.withVoices x).arp = s.arp := rfl
@[simp] theorem State.withVoices_outbox (s : State) (x : Vector Voice 4) : (s.withVoices x).outbox = s.outbox := rfl
@[simp] theorem State.withVoices_status (s : State) (x : Vector Voice 4) : (s.withVoices x).status = s.status := rfl
@[simp] theorem State.withVoices_mem (s : State) (x : Vector Voice 4) : (s.withVoices x).mem = s.mem := rfl
@[simp] theorem State.withVoices_ports (s : State) (x : Vector Voice 4) : (s.withVoices x).ports = s.ports := rfl
@[simp] theorem State.withVoices_params (s : State) (x : Vector Voice 4) : (s.withVoices x).params = s.params := rfl
@[simp] theorem State.withVoices_inputs (s : State) (x : Vector Voice 4) : (s.withVoices x).inputs = s.inputs := rfl
@[simp] theorem State.withVoices_withVoices (s : State) (x y : Vector Voice 4) : (s.withVoices x).withVoices y = s.withVoices y := rfl
@[simp] theorem State.withVoices_self (s : State) : s.withVoices s.voices = s := rfl

@[simp] theorem State.withEngines_osc (s : State) (x : Vector Engine 2) : (s.withEngines x).osc = s.osc := rfl
@[simp] theorem State.withEngines_voices (s : State) (x : Vector Engine 2) : (s.withEngines x).voices = s.voices := rfl
@[simp] theorem State.withEngines_engines (s : State) (x : Vector Engine 2) : (s.withEngines x).engines = x := rfl
@[simp] theorem State.withEngines_pw (s : State) (x : Vector Engine 2) : (s.withEngines x).pw = s.pw := rfl
@[simp] theorem State.withEngines_mixer (s : State) (x : Vector Engine 2) : (s.withEngines x).mixer = s.mixer := rfl
@[simp] theorem State.withEngines_env (s : State) (x : Vector Engine 2) : (s.withEngines x).env = s.env := rfl
@[simp] theorem State.withEngines_envMod (s : State) (x : Vector Engine 2) : (s.withEngines x).envMod = s.envMod := rfl
@[simp] theorem State.withEngines_lfo (s : State) (x : Vector Engine 2) : (s.withEngines x).lfo = s.lfo := rfl
@[simp] theorem State.withEngines_lfoMod (s : State) (x : Vector Engine 2) : (s.withEngines x).lfoMod = s.lfoMod := rfl
@[simp] theorem State.withEngines_qVel (s : State) (x : Vector Engine 2) : (s.withEngines x).qVel = s.qVel := rfl
@[simp] theorem State.withEngines_vel (s : State) (x : Vector Engine 2) : (s.withEngines x).vel = s.vel := rfl
@[simp] theorem State.withEngines_matrix (s : State) (x : Vector Engine 2) : (s.withEngines x).matrix = s.matrix := rfl
@[simp] theorem State.withEngines_ui (s : State) (x : Vector Engine 2) : (s.withEngines x).ui = s.ui := rfl
@[simp] theorem State.withEngines_filter (s : State) (x : Vector Engine 2) : (s.withEngines x).filter = s.filter := rfl
@[simp] theorem State.withEngines_shape (s : State) (x : Vector Engine 2) : (s.withEngines x).shape = s.shape := rfl
@[simp] theorem State.withEngines_alloc (s : State) (x : Vector Engine 2) : (s.withEngines x).alloc = s.alloc := rfl
@[simp] theorem State.withEngines_clock (s : State) (x : Vector Engine 2) : (s.withEngines x).clock = s.clock := rfl
@[simp] theorem State.withEngines_ext (s : State) (x : Vector Engine 2) : (s.withEngines x).ext = s.ext := rfl
@[simp] theorem State.withEngines_seq (s : State) (x : Vector Engine 2) : (s.withEngines x).seq = s.seq := rfl
@[simp] theorem State.withEngines_arp (s : State) (x : Vector Engine 2) : (s.withEngines x).arp = s.arp := rfl
@[simp] theorem State.withEngines_outbox (s : State) (x : Vector Engine 2) : (s.withEngines x).outbox = s.outbox := rfl
@[simp] theorem State.withEngines_status (s : State) (x : Vector Engine 2) : (s.withEngines x).status = s.status := rfl
@[simp] theorem State.withEngines_mem (s : State) (x : Vector Engine 2) : (s.withEngines x).mem = s.mem := rfl
@[simp] theorem State.withEngines_ports (s : State) (x : Vector Engine 2) : (s.withEngines x).ports = s.ports := rfl
@[simp] theorem State.withEngines_params (s : State) (x : Vector Engine 2) : (s.withEngines x).params = s.params := rfl
@[simp] theorem State.withEngines_inputs (s : State) (x : Vector Engine 2) : (s.withEngines x).inputs = s.inputs := rfl
@[simp] theorem State.withEngines_withEngines (s : State) (x y : Vector Engine 2) : (s.withEngines x).withEngines y = s.withEngines y := rfl
@[simp] theorem State.withEngines_self (s : State) : s.withEngines s.engines = s := rfl

@[simp] theorem State.withPw_osc (s : State) (x : PulseWidth) : (s.withPw x).osc = s.osc := rfl
@[simp] theorem State.withPw_voices (s : State) (x : PulseWidth) : (s.withPw x).voices = s.voices := rfl
@[simp] theorem State.withPw_engines (s : State) (x : PulseWidth) : (s.withPw x).engines = s.engines := rfl
@[simp] theorem State.withPw_pw (s : State) (x : PulseWidth) : (s.withPw x).pw = x := rfl
@[simp] theorem State.withPw_mixer (s : State) (x : PulseWidth) : (s.withPw x).mixer = s.mixer := rfl
@[simp] theorem State.withPw_env (s : State) (x : PulseWidth) : (s.withPw x).env = s.env := rfl
@[simp] theorem State.withPw_envMod (s : State) (x : PulseWidth) : (s.withPw x).envMod = s.envMod := rfl
@[simp] theorem State.withPw_lfo (s : State) (x : PulseWidth) : (s.withPw x).lfo = s.lfo := rfl
@[simp] theorem State.withPw_lfoMod (s : State) (x : PulseWidth) : (s.withPw x).lfoMod = s.lfoMod := rfl
@[simp] theorem State.withPw_qVel (s : State) (x : PulseWidth) : (s.withPw x).qVel = s.qVel := rfl
@[simp] theorem State.withPw_vel (s : State) (x : PulseWidth) : (s.withPw x).vel = s.vel := rfl
@[simp] theorem State.withPw_matrix (s : State) (x : PulseWidth) : (s.withPw x).matrix = s.matrix := rfl
@[simp] theorem State.withPw_ui (s : State) (x : PulseWidth) : (s.withPw x).ui = s.ui := rfl
@[simp] theorem State.withPw_filter (s : State) (x : PulseWidth) : (s.withPw x).filter = s.filter := rfl
@[simp] theorem State.withPw_shape (s : State) (x : PulseWidth) : (s.withPw x).shape = s.shape := rfl
@[simp] theorem State.withPw_alloc (s : State) (x : PulseWidth) : (s.withPw x).alloc = s.alloc := rfl
@[simp] theorem State.withPw_clock (s : State) (x : PulseWidth) : (s.withPw x).clock = s.clock := rfl
@[simp] theorem State.withPw_ext (s : State) (x : PulseWidth) : (s.withPw x).ext = s.ext := rfl
@[simp] theorem State.withPw_seq (s : State) (x : PulseWidth) : (s.withPw x).seq = s.seq := rfl
@[simp] theorem State.withPw_arp (s : State) (x : PulseWidth) : (s.withPw x).arp = s.arp := rfl
@[simp] theorem State.withPw_outbox (s : State) (x : PulseWidth) : (s.withPw x).outbox = s.outbox := rfl
@[simp] theorem State.withPw_status (s : State) (x : PulseWidth) : (s.withPw x).status = s.status := rfl
@[simp] theorem State.withPw_mem (s : State) (x : PulseWidth) : (s.withPw x).mem = s.mem := rfl
@[simp] theorem State.withPw_ports (s : State) (x : PulseWidth) : (s.withPw x).ports = s.ports := rfl
@[simp] theorem State.withPw_params (s : State) (x : PulseWidth) : (s.withPw x).params = s.params := rfl
@[simp] theorem State.withPw_inputs (s : State) (x : PulseWidth) : (s.withPw x).inputs = s.inputs := rfl
@[simp] theorem State.withPw_withPw (s : State) (x y : PulseWidth) : (s.withPw x).withPw y = s.withPw y := rfl
@[simp] theorem State.withPw_self (s : State) : s.withPw s.pw = s := rfl

@[simp] theorem State.withMixer_osc (s : State) (x : Mixer) : (s.withMixer x).osc = s.osc := rfl
@[simp] theorem State.withMixer_voices (s : State) (x : Mixer) : (s.withMixer x).voices = s.voices := rfl
@[simp] theorem State.withMixer_engines (s : State) (x : Mixer) : (s.withMixer x).engines = s.engines := rfl
@[simp] theorem State.withMixer_pw (s : State) (x : Mixer) : (s.withMixer x).pw = s.pw := rfl
@[simp] theorem State.withMixer_mixer (s : State) (x : Mixer) : (s.withMixer x).mixer = x := rfl
@[simp] theorem State.withMixer_env (s : State) (x : Mixer) : (s.withMixer x).env = s.env := rfl
@[simp] theorem State.withMixer_envMod (s : State) (x : Mixer) : (s.withMixer x).envMod = s.envMod := rfl
@[simp] theorem State.withMixer_lfo (s : State) (x : Mixer) : (s.withMixer x).lfo = s.lfo := rfl
@[simp] theorem State.withMixer_lfoMod (s : State) (x : Mixer) : (s.withMixer x).lfoMod = s.lfoMod := rfl
@[simp] theorem State.withMixer_qVel (s : State) (x : Mixer) : (s.withMixer x).qVel = s.qVel := rfl
@[simp] theorem State.withMixer_vel (s : State) (x : Mixer) : (s.withMixer x).vel = s.vel := rfl
@[simp] theorem State.withMixer_matrix (s : State) (x : Mixer) : (s.withMixer x).matrix = s.matrix := rfl
@[simp] theorem State.withMixer_ui (s : State) (x : Mixer) : (s.withMixer x).ui = s.ui := rfl
@[simp] theorem State.withMixer_filter (s : State) (x : Mixer) : (s.withMixer x).filter = s.filter := rfl
@[simp] theorem State.withMixer_shape (s : State) (x : Mixer) : (s.withMixer x).shape = s.shape := rfl
@[simp] theorem State.withMixer_alloc (s : State) (x : Mixer) : (s.withMixer x).alloc = s.alloc := rfl
@[simp] theorem State.withMixer_clock (s : State) (x : Mixer) : (s.withMixer x).clock = s.clock := rfl
@[simp] theorem State.withMixer_ext (s : State) (x : Mixer) : (s.withMixer x).ext = s.ext := rfl
@[simp] theorem State.withMixer_seq (s : State) (x : Mixer) : (s.withMixer x).seq = s.seq := rfl
@[simp] theorem State.withMixer_arp (s : State) (x : Mixer) : (s.withMixer x).arp = s.arp := rfl
@[simp] theorem State.withMixer_outbox (s : State) (x : Mixer) : (s.withMixer x).outbox = s.outbox := rfl
@[simp] theorem State.withMixer_status (s : State) (x : Mixer) : (s.withMixer x).status = s.status := rfl
@[simp] theorem State.withMixer_mem (s : State) (x : Mixer) : (s.withMixer x).mem = s.mem := rfl
@[simp] theorem State.withMixer_ports (s : State) (x : Mixer) : (s.withMixer x).ports = s.ports := rfl
@[simp] theorem State.withMixer_params (s : State) (x : Mixer) : (s.withMixer x).params = s.params := rfl
@[simp] theorem State.withMixer_inputs (s : State) (x : Mixer) : (s.withMixer x).inputs = s.inputs := rfl
@[simp] theorem State.withMixer_withMixer (s : State) (x y : Mixer) : (s.withMixer x).withMixer y = s.withMixer y := rfl
@[simp] theorem State.withMixer_self (s : State) : s.withMixer s.mixer = s := rfl

@[simp] theorem State.withEnv_osc (s : State) (x : Envelope) : (s.withEnv x).osc = s.osc := rfl
@[simp] theorem State.withEnv_voices (s : State) (x : Envelope) : (s.withEnv x).voices = s.voices := rfl
@[simp] theorem State.withEnv_engines (s : State) (x : Envelope) : (s.withEnv x).engines = s.engines := rfl
@[simp] theorem State.withEnv_pw (s : State) (x : Envelope) : (s.withEnv x).pw = s.pw := rfl
@[simp] theorem State.withEnv_mixer (s : State) (x : Envelope) : (s.withEnv x).mixer = s.mixer := rfl
@[simp] theorem State.withEnv_env (s : State) (x : Envelope) : (s.withEnv x).env = x := rfl
@[simp] theorem State.withEnv_envMod (s : State) (x : Envelope) : (s.withEnv x).envMod = s.envMod := rfl
@[simp] theorem State.withEnv_lfo (s : State) (x : Envelope) : (s.withEnv x).lfo = s.lfo := rfl
@[simp] theorem State.withEnv_lfoMod (s : State) (x : Envelope) : (s.withEnv x).lfoMod = s.lfoMod := rfl
@[simp] theorem State.withEnv_qVel (s : State) (x : Envelope) : (s.withEnv x).qVel = s.qVel := rfl
@[simp] theorem State.withEnv_vel (s : State) (x : Envelope) : (s.withEnv x).vel = s.vel := rfl
@[simp] theorem State.withEnv_matrix (s : State) (x : Envelope) : (s.withEnv x).matrix = s.matrix := rfl
@[simp] theorem State.withEnv_ui (s : State) (x : Envelope) : (s.withEnv x).ui = s.ui := rfl
@[simp] theorem State.withEnv_filter (s : State) (x : Envelope) : (s.withEnv x).filter = s.filter := rfl
@[simp] theorem State.withEnv_shape (s : State) (x : Envelope) : (s.withEnv x).shape = s.shape := rfl
@[simp] theorem State.withEnv_alloc (s : State) (x : Envelope) : (s.withEnv x).alloc = s.alloc := rfl
@[simp] theorem State.withEnv_clock (s : State) (x : Envelope) : (s.withEnv x).clock = s.clock := rfl
@[simp] theorem State.withEnv_ext (s : State) (x : Envelope) : (s.withEnv x).ext = s.ext := rfl
@[simp] theorem State.withEnv_seq (s : State) (x : Envelope) : (s.withEnv x).seq = s.seq := rfl
@[simp] theorem State.withEnv_arp (s : State) (x : Envelope) : (s.withEnv x).arp = s.arp := rfl
@[simp] theorem State.withEnv_outbox (s : State) (x : Envelope) : (s.withEnv x).outbox = s.outbox := rfl
@[simp] theorem State.withEnv_status (s : State) (x : Envelope) : (s.withEnv x).status = s.status := rfl
@[simp] theorem State.withEnv_mem (s : State) (x : Envelope) : (s.withEnv x).mem = s.mem := rfl
@[simp] theorem State.withEnv_ports (s : State) (x : Envelope) : (s.withEnv x).ports = s.ports := rfl
@[simp] theorem State.withEnv_params (s : State) (x : Envelope) : (s.withEnv x).params = s.params := rfl
@[simp] theorem State.withEnv_inputs (s : State) (x : Envelope) : (s.withEnv x).inputs = s.inputs := rfl
@[simp] theorem State.withEnv_withEnv (s : State) (x y : Envelope) : (s.withEnv x).withEnv y = s.withEnv y := rfl
@[simp] theorem State.withEnv_self (s : State) : s.withEnv s.env = s := rfl

@[simp] theorem State.withEnvMod_osc (s : State) (x : EnvMod) : (s.withEnvMod x).osc = s.osc := rfl
@[simp] theorem State.withEnvMod_voices (s : State) (x : EnvMod) : (s.withEnvMod x).voices = s.voices := rfl
@[simp] theorem State.withEnvMod_engines (s : State) (x : EnvMod) : (s.withEnvMod x).engines = s.engines := rfl
@[simp] theorem State.withEnvMod_pw (s : State) (x : EnvMod) : (s.withEnvMod x).pw = s.pw := rfl
@[simp] theorem State.withEnvMod_mixer (s : State) (x : EnvMod) : (s.withEnvMod x).mixer = s.mixer := rfl
@[simp] theorem State.withEnvMod_env (s : State) (x : EnvMod) : (s.withEnvMod x).env = s.env := rfl
@[simp] theorem State.withEnvMod_envMod (s : State) (x : EnvMod) : (s.withEnvMod x).envMod = x := rfl
@[simp] theorem State.withEnvMod_lfo (s : State) (x : EnvMod) : (s.withEnvMod x).lfo = s.lfo := rfl
@[simp] theorem State.withEnvMod_lfoMod (s : State) (x : EnvMod) : (s.withEnvMod x).lfoMod = s.lfoMod := rfl
@[simp] theorem State.withEnvMod_qVel (s : State) (x : EnvMod) : (s.withEnvMod x).qVel = s.qVel := rfl
@[simp] theorem State.withEnvMod_vel (s : State) (x : EnvMod) : (s.withEnvMod x).vel = s.vel := rfl
@[simp] theorem State.withEnvMod_matrix (s : State) (x : EnvMod) : (s.withEnvMod x).matrix = s.matrix := rfl
@[simp] theorem State.withEnvMod_ui (s : State) (x : EnvMod) : (s.withEnvMod x).ui = s.ui := rfl
@[simp] theorem State.withEnvMod_filter (s : State) (x : EnvMod) : (s.withEnvMod x).filter = s.filter := rfl
@[simp] theorem State.withEnvMod_shape (s : State) (x : EnvMod) : (s.withEnvMod x).shape = s.shape := rfl
@[simp] theorem State.withEnvMod_alloc (s : State) (x : EnvMod) : (s.withEnvMod x).alloc = s.alloc := rfl
@[simp] theorem State.withEnvMod_clock (s : State) (x : EnvMod) : (s.withEnvMod x).clock = s.clock := rfl
@[simp] theorem State.withEnvMod_ext (s : State) (x : EnvMod) : (s.withEnvMod x).ext = s.ext := rfl
@[simp] theorem State.withEnvMod_seq (s : State) (x : EnvMod) : (s.withEnvMod x).seq = s.seq := rfl
@[simp] theorem State.withEnvMod_arp (s : State) (x : EnvMod) : (s.withEnvMod x).arp = s.arp := rfl
@[simp] theorem State.withEnvMod_outbox (s : State) (x : EnvMod) : (s.withEnvMod x).outbox = s.outbox := rfl
@[simp] theorem State.withEnvMod_status (s : State) (x : EnvMod) : (s.withEnvMod x).status = s.status := rfl
@[simp] theorem State.withEnvMod_mem (s : State) (x : EnvMod) : (s.withEnvMod x).mem = s.mem := rfl
@[simp] theorem State.withEnvMod_ports (s : State) (x : EnvMod) : (s.withEnvMod x).ports = s.ports := rfl
@[simp] theorem State.withEnvMod_params (s : State) (x : EnvMod) : (s.withEnvMod x).params = s.params := rfl
@[simp] theorem State.withEnvMod_inputs (s : State) (x : EnvMod) : (s.withEnvMod x).inputs = s.inputs := rfl
@[simp] theorem State.withEnvMod_withEnvMod (s : State) (x y : EnvMod) : (s.withEnvMod x).withEnvMod y = s.withEnvMod y := rfl
@[simp] theorem State.withEnvMod_self (s : State) : s.withEnvMod s.envMod = s := rfl

@[simp] theorem State.withLfo_osc (s : State) (x : Lfo) : (s.withLfo x).osc = s.osc := rfl
@[simp] theorem State.withLfo_voices (s : State) (x : Lfo) : (s.withLfo x).voices = s.voices := rfl
@[simp] theorem State.withLfo_engines (s : State) (x : Lfo) : (s.withLfo x).engines = s.engines := rfl
@[simp] theorem State.withLfo_pw (s : State) (x : Lfo) : (s.withLfo x).pw = s.pw := rfl
@[simp] theorem State.withLfo_mixer (s : State) (x : Lfo) : (s.withLfo x).mixer = s.mixer := rfl
@[simp] theorem State.withLfo_env (s : State) (x : Lfo) : (s.withLfo x).env = s.env := rfl
@[simp] theorem State.withLfo_envMod (s : State) (x : Lfo) : (s.withLfo x).envMod = s.envMod := rfl
@[simp] theorem State.withLfo_lfo (s : State) (x : Lfo) : (s.withLfo x).lfo = x := rfl
@[simp] theorem State.withLfo_lfoMod (s : State) (x : Lfo) : (s.withLfo x).lfoMod = s.lfoMod := rfl
@[simp] theorem State.withLfo_qVel (s : State) (x : Lfo) : (s.withLfo x).qVel = s.qVel := rfl
@[simp] theorem State.withLfo_vel (s : State) (x : Lfo) : (s.withLfo x).vel = s.vel := rfl
@[simp] theorem State.withLfo_matrix (s : State) (x : Lfo) : (s.withLfo x).matrix = s.matrix := rfl
@[simp] theorem State.withLfo_ui (s : State) (x : Lfo) : (s.withLfo x).ui = s.ui := rfl
@[simp] theorem State.withLfo_filter (s : State) (x : Lfo) : (s.withLfo x).filter = s.filter := rfl
@[simp] theorem State.withLfo_shape (s : State) (x : Lfo) : (s.withLfo x).shape = s.shape := rfl
@[simp] theorem State.withLfo_alloc (s : State) (x : Lfo) : (s.withLfo x).alloc = s.alloc := rfl
@[simp] theorem State.withLfo_clock (s : State) (x : Lfo) : (s.withLfo x).clock = s.clock := rfl
@[simp] theorem State.withLfo_ext (s : State) (x : Lfo) : (s.withLfo x).ext = s.ext := rfl
@[simp] theorem State.withLfo_seq (s : State) (x : Lfo) : (s.withLfo x).seq = s.seq := rfl
@[simp] theorem State.withLfo_arp (s : State) (x : Lfo) : (s.withLfo x).arp = s.arp := rfl
@[simp] theorem State.withLfo_outbox (s : State) (x : Lfo) : (s.withLfo x).outbox = s.outbox := rfl
@[simp] theorem State.withLfo_status (s : State) (x : Lfo) : (s.withLfo x).status = s.status := rfl
@[simp] theorem State.withLfo_mem (s : State) (x : Lfo) : (s.withLfo x).mem = s.mem := rfl
@[simp] theorem State.withLfo_ports (s : State) (x : Lfo) : (s.withLfo x).ports = s.ports := rfl
@[simp] theorem State.withLfo_params (s : State) (x : Lfo) : (s.withLfo x).params = s.params := rfl
@[simp] theorem State.withLfo_inputs (s : State) (x : Lfo) : (s.withLfo x).inputs = s.inputs := rfl
@[simp] theorem State.withLfo_withLfo (s : State) (x y : Lfo) : (s.withLfo x).withLfo y = s.withLfo y := rfl
@[simp] theorem State.withLfo_self (s : State) : s.withLfo s.lfo = s := rfl

@[simp] theorem State.withLfoMod_osc (s : State) (x : LfoMod) : (s.withLfoMod x).osc = s.osc := rfl
@[simp] theorem State.withLfoMod_voices (s : State) (x : LfoMod) : (s.withLfoMod x).voices = s.voices := rfl
@[simp] theorem State.withLfoMod_engines (s : State) (x : LfoMod) : (s.withLfoMod x).engines = s.engines := rfl
@[simp] theorem State.withLfoMod_pw (s : State) (x : LfoMod) : (s.withLfoMod x).pw = s.pw := rfl
@[simp] theorem State.withLfoMod_mixer (s : State) (x : LfoMod) : (s.withLfoMod x).mixer = s.mixer := rfl
@[simp] theorem State.withLfoMod_env (s : State) (x : LfoMod) : (s.withLfoMod x).env = s.env := rfl
@[simp] theorem State.withLfoMod_envMod (s : State) (x : LfoMod) : (s.withLfoMod x).envMod = s.envMod := rfl
@[simp] theorem State.withLfoMod_lfo (s : State) (x : LfoMod) : (s.withLfoMod x).lfo = s.lfo := rfl
@[simp] theorem State.withLfoMod_lfoMod (s : State) (x : LfoMod) : (s.withLfoMod x).lfoMod = x := rfl
@[simp] theorem State.withLfoMod_qVel (s : State) (x : LfoMod) : (s.withLfoMod x).qVel = s.qVel := rfl
@[simp] theorem State.withLfoMod_vel (s : State) (x : LfoMod) : (s.withLfoMod x).vel = s.vel := rfl
@[simp] theorem State.withLfoMod_matrix (s : State) (x : LfoMod) : (s.withLfoMod x).matrix = s.matrix := rfl
@[simp] theorem State.withLfoMod_ui (s : State) (x : LfoMod) : (s.withLfoMod x).ui = s.ui := rfl
@[simp] theorem State.withLfoMod_filter (s : State) (x : LfoMod) : (s.withLfoMod x).filter = s.filter := rfl
@[simp] theorem State.withLfoMod_shape (s : State) (x : LfoMod) : (s.withLfoMod x).shape = s.shape := rfl
@[simp] theorem State.withLfoMod_alloc (s : State) (x : LfoMod) : (s.withLfoMod x).alloc = s.alloc := rfl
@[simp] theorem State.withLfoMod_clock (s : State) (x : LfoMod) : (s.withLfoMod x).clock = s.clock := rfl
@[simp] theorem State.withLfoMod_ext (s : State) (x : LfoMod) : (s.withLfoMod x).ext = s.ext := rfl
@[simp] theorem State.withLfoMod_seq (s : State) (x : LfoMod) : (s.withLfoMod x).seq = s.seq := rfl
@[simp] theorem State.withLfoMod_arp (s : State) (x : LfoMod) : (s.withLfoMod x).arp = s.arp := rfl
@[simp] theorem State.withLfoMod_outbox (s : State) (x : LfoMod) : (s.withLfoMod x).outbox = s.outbox := rfl
@[simp] theorem State.withLfoMod_status (s : State) (x : LfoMod) : (s.withLfoMod x).status = s.status := rfl
@[simp] theorem State.withLfoMod_mem (s : State) (x : LfoMod) : (s.withLfoMod x).mem = s.mem := rfl
@[simp] theorem State.withLfoMod_ports (s : State) (x : LfoMod) : (s.withLfoMod x).ports = s.ports := rfl
@[simp] theorem State.withLfoMod_params (s : State) (x : LfoMod) : (s.withLfoMod x).params = s.params := rfl
@[simp] theorem State.withLfoMod_inputs (s : State) (x : LfoMod) : (s.withLfoMod x).inputs = s.inputs := rfl
@[simp] theorem State.withLfoMod_withLfoMod (s : State) (x y : LfoMod) : (s.withLfoMod x).withLfoMod y = s.withLfoMod y := rfl
@[simp] theorem State.withLfoMod_self (s : State) : s.withLfoMod s.lfoMod = s := rfl

@[simp] theorem State.withQVel_osc (s : State) (x : VelMod) : (s.withQVel x).osc = s.osc := rfl
@[simp] theorem State.withQVel_voices (s : State) (x : VelMod) : (s.withQVel x).voices = s.voices := rfl
@[simp] theorem State.withQVel_engines (s : State) (x : VelMod) : (s.withQVel x).engines = s.engines := rfl
@[simp] theorem State.withQVel_pw (s : State) (x : VelMod) : (s.withQVel x).pw = s.pw := rfl
@[simp] theorem State.withQVel_mixer (s : State) (x : VelMod) : (s.withQVel x).mixer = s.mixer := rfl
@[simp] theorem State.withQVel_env (s : State) (x : VelMod) : (s.withQVel x).env = s.env := rfl
@[simp] theorem State.withQVel_envMod (s : State) (x : VelMod) : (s.withQVel x).envMod = s.envMod := rfl
@[simp] theorem State.withQVel_lfo (s : State) (x : VelMod) : (s.withQVel x).lfo = s.lfo := rfl
@[simp] theorem State.withQVel_lfoMod (s : State) (x : VelMod) : (s.withQVel x).lfoMod = s.lfoMod := rfl
@[simp] theorem State.withQVel_qVel (s : State) (x : VelMod) : (s.withQVel x).qVel = x := rfl
@[simp] theorem State.withQVel_vel (s : State) (x : VelMod) : (s.withQVel x).vel = s.vel := rfl
@[simp] theorem State.withQVel_matrix (s : State) (x : VelMod) : (s.withQVel x).matrix = s.matrix := rfl
@[simp] theorem State.withQVel_ui (s : State) (x : VelMod) : (s.withQVel x).ui = s.ui := rfl
@[simp] theorem State.withQVel_filter (s : State) (x : VelMod) : (s.withQVel x).filter = s.filter := rfl
@[simp] theorem State.withQVel_shape (s : State) (x : VelMod) : (s.withQVel x).shape = s.shape := rfl
@[simp] theorem State.withQVel_alloc (s : State) (x : VelMod) : (s.withQVel x).alloc = s.alloc := rfl
@[simp] theorem State.withQVel_clock (s : State) (x : VelMod) : (s.withQVel x).clock = s.clock := rfl
@[simp] theorem State.withQVel_ext (s : State) (x : VelMod) : (s.withQVel x).ext = s.ext := rfl
@[simp] theorem State.withQVel_seq (s : State) (x : VelMod) : (s.withQVel x).seq = s.seq := rfl
@[simp] theorem State.withQVel_arp (s : State) (x : VelMod) : (s.withQVel x).arp = s.arp := rfl
@[simp] theorem State.withQVel_outbox (s : State) (x : VelMod) : (s.withQVel x).outbox = s.outbox := rfl
@[simp] theorem State.withQVel_status (s : State) (x : VelMod) : (s.withQVel x).status = s.status := rfl
@[simp] theorem State.withQVel_mem (s : State) (x : VelMod) : (s.withQVel x).mem = s.mem := rfl
@[simp] theorem State.withQVel_ports (s : State) (x : VelMod) : (s.withQVel x).ports = s.ports := rfl
@[simp] theorem State.withQVel_params (s : State) (x : VelMod) : (s.withQVel x).params = s.params := rfl
@[simp] theorem State.withQVel_inputs (s : State) (x : VelMod) : (s.withQVel x).inputs = s.inputs := rfl
@[simp] theorem State.withQVel_withQVel (s : State) (x y : VelMod) : (s.withQVel x).withQVel y = s.withQVel y := rfl
@[simp] theorem State.withQVel_self (s : State) : s.withQVel s.qVel = s := rfl

@[simp] theorem State.withVel_osc (s : State) (x : VelMod) : (s.withVel x).osc = s.osc := rfl
@[simp] theorem State.withVel_voices (s : State) (x : VelMod) : (s.withVel x).voices = s.voices := rfl
@[simp] theorem State.withVel_engines (s : State) (x : VelMod) : (s.withVel x).engines = s.engines := rfl
@[simp] theorem State.withVel_pw (s : State) (x : VelMod) : (s.withVel x).pw = s.pw := rfl
@[simp] theorem State.withVel_mixer (s : State) (x : VelMod) : (s.withVel x).mixer = s.mixer := rfl
@[simp] theorem State.withVel_env (s : State) (x : VelMod) : (s.withVel x).env = s.env := rfl
@[simp] theorem State.withVel_envMod (s : State) (x : VelMod) : (s.withVel x).envMod = s.envMod := rfl
@[simp] theorem State.withVel_lfo (s : State) (x : VelMod) : (s.withVel x).lfo = s.lfo := rfl
@[simp] theorem State.withVel_lfoMod (s : State) (x : VelMod) : (s.withVel x).lfoMod = s.lfoMod := rfl
@[simp] theorem State.withVel_qVel (s : State) (x : VelMod) : (s.withVel x).qVel = s.qVel := rfl
@[simp] theorem State.withVel_vel (s : State) (x : VelMod) : (s.withVel x).vel = x := rfl
@[simp] theorem State.withVel_matrix (s : State) (x : VelMod) : (s.withVel x).matrix = s.matrix := rfl
@[simp] theorem State.withVel_ui (s : State) (x : VelMod) : (s.withVel x).ui = s.ui := rfl
@[simp] theorem State.withVel_filter (s : State) (x : VelMod) : (s.withVel x).filter = s.filter := rfl
@[simp] theorem State.withVel_shape (s : State) (x : VelMod) : (s.withVel x).shape = s.shape := rfl
@[simp] theorem State.withVel_alloc (s : State) (x : VelMod) : (s.withVel x).alloc = s.alloc := rfl
@[simp] theorem State.withVel_clock (s : State) (x : VelMod) : (s.withVel x).clock = s.clock := rfl
@[simp] theorem State.withVel_ext (s : State) (x : VelMod) : (s.withVel x).ext = s.ext := rfl
@[simp] theorem State.withVel_seq (s : State) (x : VelMod) : (s.withVel x).seq = s.seq := rfl
@[simp] theorem State.withVel_arp (s : State) (x : VelMod) : (s.withVel x).arp = s.arp := rfl
@[simp] theorem State.withVel_outbox (s : State) (x : VelMod) : (s.withVel x).outbox = s.outbox := rfl
@[simp] theorem State.withVel_status (s : State) (x : VelMod) : (s.withVel x).status = s.status := rfl
@[simp] theorem State.withVel_mem (s : State) (x : VelMod) : (s.withVel x).mem = s.mem := rfl
@[simp] theorem State.withVel_ports (s : State) (x : VelMod) : (s.withVel x).ports = s.ports := rfl
@[simp] theorem State.withVel_params (s : State) (x : VelMod) : (s.withVel x).params = s.params := rfl
@[simp] theorem State.withVel_inputs (s : State) (x : VelMod) : (s.withVel x).inputs = s.inputs := rfl
@[simp] theorem State.withVel_withVel (s : State) (x y : VelMod) : (s.withVel x).withVel y = s.withVel y := rfl
@[simp] theorem State.withVel_self (s : State) : s.withVel s.vel = s := rfl

@[simp] theorem State.withMatrix_osc (s : State) (x : Vector Int 17) : (s.withMatrix x).osc = s.osc := rfl
@[simp] theorem State.withMatrix_voices (s : State) (x : Vector Int 17) : (s.withMatrix x).voices = s.voices := rfl
@[simp] theorem State.withMatrix_engines (s : State) (x : Vector Int 17) : (s.withMatrix x).engines = s.engines := rfl
@[simp] theorem State.withMatrix_pw (s : State) (x : Vector Int 17) : (s.withMatrix x).pw = s.pw := rfl
@[simp] theorem State.withMatrix_mixer (s : State) (x : Vector Int 17) : (s.withMatrix x).mixer = s.mixer := rfl
@[simp] theorem State.withMatrix_env (s : State) (x : Vector Int 17) : (s.withMatrix x).env = s.env := rfl
@[simp] theorem State.withMatrix_envMod (s : State) (x : Vector Int 17) : (s.withMatrix x).envMod = s.envMod := rfl
@[simp] theorem State.withMatrix_lfo (s : State) (x : Vector Int 17) : (s.withMatrix x).lfo = s.lfo := rfl
@[simp] theorem State.withMatrix_lfoMod (s : State) (x : Vector Int 17) : (s.withMatrix x).lfoMod = s.lfoMod := rfl
@[simp] theorem State.withMatrix_qVel (s : State) (x : Vector Int 17) : (s.withMatrix x).qVel = s.qVel := rfl
@[simp] theorem State.withMatrix_vel (s : State) (x : Vector Int 17) : (s.withMatrix x).vel = s.vel := rfl
@[simp] theorem State.withMatrix_matrix (s : State) (x : Vector Int 17) : (s.withMatrix x).matrix = x := rfl
@[simp] theorem State.withMatrix_ui (s : State) (x : Vector Int 17) : (s.withMatrix x).ui = s.ui := rfl
@[simp] theorem State.withMatrix_filter (s : State) (x : Vector Int 17) : (s.withMatrix x).filter = s.filter := rfl
@[simp] theorem State.withMatrix_shape (s : State) (x : Vector Int 17) : (s.withMatrix x).shape = s.shape := rfl
@[simp] theorem State.withMatrix_alloc (s : State) (x : Vector Int 17) : (s.withMatrix x).alloc = s.alloc := rfl
@[simp] theorem State.withMatrix_clock (s : State) (x : Vector Int 17) : (s.withMatrix x).clock = s.clock := rfl
@[simp] theorem State.withMatrix_ext (s : State) (x : Vector Int 17) : (s.withMatrix x).ext = s.ext := rfl
@[simp] theorem State.withMatrix_seq (s : State) (x : Vector Int 17) : (s.withMatrix x).seq = s.seq := rfl
@[simp] theorem State.withMatrix_arp (s : State) (x : Vector Int 17) : (s.withMatrix x).arp = s.arp := rfl
@[simp] theorem State.withMatrix_outbox (s : State) (x : Vector Int 17) : (s.withMatrix x).outbox = s.outbox := rfl
@[simp] theorem State.withMatrix_status (s : State) (x : Vector Int 17) : (s.withMatrix x).status = s.status := rfl
@[simp] theorem State.withMatrix_mem (s : State) (x : Vector Int 17) : (s.withMatrix x).mem = s.mem := rfl
@[simp] theorem State.withMatrix_ports (s : State) (x : Vector Int 17) : (s.withMatrix x).ports = s.ports := rfl
@[simp] theorem State.withMatrix_params (s : State) (x : Vector Int 17) : (s.withMatrix x).params = s.params := rfl
@[simp] theorem State.withMatrix_inputs (s : State) (x : Vector Int 17) : (s.withMatrix x).inputs = s.inputs := rfl
@[simp] theorem State.withMatrix_withMatrix (s : State) (x y : Vector Int 17) : (s.withMatrix x).withMatrix y = s.withMatrix y := rfl
@[simp] theorem State.withMatrix_self (s : State) : s.withMatrix s.matrix = s := rfl

@[simp] theorem State.withUi_osc (s : State) (x : Ui) : (s.withUi x).osc = s.osc := rfl
@[simp] theorem State.withUi_voices (s : State) (x : Ui) : (s.withUi x).voices = s.voices := rfl
@[simp] theorem State.withUi_engines (s : State) (x : Ui) : (s.withUi x).engines = s.engines := rfl
@[simp] theorem State.withUi_pw (s : State) (x : Ui) : (s.withUi x).pw = s.pw := rfl
@[simp] theorem State.withUi_mixer (s : State) (x : Ui) : (s.withUi x).mixer = s.mixer := rfl
@[simp] theorem State.withUi_env (s : State) (x : Ui) : (s.withUi x).env = s.env := rfl
@[simp] theorem State.withUi_envMod (s : State) (x : Ui) : (s.withUi x).envMod = s.envMod := rfl
@[simp] theorem State.withUi_lfo (s : State) (x : Ui) : (s.withUi x).lfo = s.lfo := rfl
@[simp] theorem State.withUi_lfoMod (s : State) (x : Ui) : (s.withUi x).lfoMod = s.lfoMod := rfl
@[simp] theorem State.withUi_qVel (s : State) (x : Ui) : (s.withUi x).qVel = s.qVel := rfl
@[simp] theorem State.withUi_vel (s : State) (x : Ui) : (s.withUi x).vel = s.vel := rfl
@[simp] theorem State.withUi_matrix (s : State) (x : Ui) : (s.withUi x).matrix = s.matrix := rfl
@[simp] theorem State.withUi_ui (s : State) (x : Ui) : (s.withUi x).ui = x := rfl
@[simp] theorem State.withUi_filter (s : State) (x : Ui) : (s.withUi x).filter = s.filter := rfl
@[simp] theorem State.withUi_shape (s : State) (x : Ui) : (s.withUi x).shape = s.shape := rfl
@[simp] theorem State.withUi_alloc (s : State) (x : Ui) : (s.withUi x).alloc = s.alloc := rfl
@[simp] theorem State.withUi_clock (s : State) (x : Ui) : (s.withUi x).clock = s.clock := rfl
@[simp] theorem State.withUi_ext (s : State) (x : Ui) : (s.withUi x).ext = s.ext := rfl
@[simp] theorem State.withUi_seq (s : State) (x : Ui) : (s.withUi x).seq = s.seq := rfl
@[simp] theorem State.withUi_arp (s : State) (x : Ui) : (s.withUi x).arp = s.arp := rfl
@[simp] theorem State.withUi_outbox (s : State) (x : Ui) : (s.withUi x).outbox = s.outbox := rfl
@[simp] theorem State.withUi_status (s : State) (x : Ui) : (s.withUi x).status = s.status := rfl
@[simp] theorem State.withUi_mem (s : State) (x : Ui) : (s.withUi x).mem = s.mem := rfl
@[simp] theorem State.withUi_ports (s : State) (x : Ui) : (s.withUi x).ports = s.ports := rfl
@[simp] theorem State.withUi_params (s : State) (x : Ui) : (s.withUi x).params = s.params := rfl
@[simp] theorem State.withUi_inputs (s : State) (x : Ui) : (s.withUi x).inputs = s.inputs := rfl
@[simp] theorem State.withUi_withUi (s : State) (x y : Ui) : (s.withUi x).withUi y = s.withUi y := rfl
@[simp] theorem State.withUi_self (s : State) : s.withUi s.ui = s := rfl

@[simp] theorem State.withFilter_osc (s : State) (x : Filter) : (s.withFilter x).osc = s.osc := rfl
@[simp] theorem State.withFilter_voices (s : State) (x : Filter) : (s.withFilter x).voices = s.voices := rfl
@[simp] theorem State.withFilter_engines (s : State) (x : Filter) : (s.withFilter x).engines = s.engines := rfl
@[simp] theorem State.withFilter_pw (s : State) (x : Filter) : (s.withFilter x).pw = s.pw := rfl
@[simp] theorem State.withFilter_mixer (s : State) (x : Filter) : (s.withFilter x).mixer = s.mixer := rfl
@[simp] theorem State.withFilter_env (s : State) (x : Filter) : (s.withFilter x).env = s.env := rfl
@[simp] theorem State.withFilter_envMod (s : State) (x : Filter) : (s.withFilter x).envMod = s.envMod := rfl
@[simp] theorem State.withFilter_lfo (s : State) (x : Filter) : (s.withFilter x).lfo = s.lfo := rfl
@[simp] theorem State.withFilter_lfoMod (s : State) (x : Filter) : (s.withFilter x).lfoMod = s.lfoMod := rfl
@[simp] theorem State.withFilter_qVel (s : State) (x : Filter) : (s.withFilter x).qVel = s.qVel := rfl
@[simp] theorem State.withFilter_vel (s : State) (x : Filter) : (s.withFilter x).vel = s.vel := rfl
@[simp] theorem State.withFilter_matrix (s : State) (x : Filter) : (s.withFilter x).matrix = s.matrix := rfl
@[simp] theorem State.withFilter_ui (s : State) (x : Filter) : (s.withFilter x).ui = s.ui := rfl
@[simp] theorem State.withFilter_filter (s : State) (x : Filter) : (s.withFilter x).filter = x := rfl
@[simp] theorem State.withFilter_shape (s : State) (x : Filter) : (s.withFilter x).shape = s.shape := rfl
@[simp] theorem State.withFilter_alloc (s : State) (x : Filter) : (s.withFilter x).alloc = s.alloc := rfl
@[simp] theorem State.withFilter_clock (s : State) (x : Filter) : (s.withFilter x).clock = s.clock := rfl
@[simp] theorem State.withFilter_ext (s : State) (x : Filter) : (s.withFilter x).ext = s.ext := rfl
@[simp] theorem State.withFilter_seq (s : State) (x : Filter) : (s.withFilter x).seq = s.seq := rfl
@[simp] theorem State.withFilter_arp (s : State) (x : Filter) : (s.withFilter x).arp = s.arp := rfl
@[simp] theorem State.withFilter_outbox (s : State) (x : Filter) : (s.withFilter x).outbox = s.outbox := rfl
@[simp] theorem State.withFilter_status (s : State) (x : Filter) : (s.withFilter x).status = s.status := rfl
@[simp] theorem State.withFilter_mem (s : State) (x : Filter) : (s.withFilter x).mem = s.mem := rfl
@[simp] theorem State.withFilter_ports (s : State) (x : Filter) : (s.withFilter x).ports = s.ports := rfl
@[simp] theorem State.withFilter_params (s : State) (x : Filter) : (s.withFilter x).params = s.params := rfl
@[simp] theorem State.withFilter_inputs (s : State) (x : Filter) : (s.withFilter x).inputs = s.inputs := rfl
@[simp] theorem State.withFilter_withFilter (s : State) (x y : Filter) : (s.withFilter x).withFilter y = s.withFilter y := rfl
@[simp] theorem State.withFilter_self (s : State) : s.withFilter s.filter = s := rfl

@[simp] theorem State.withShape_osc (s : State) (x : ShapeParams) : (s.withShape x).osc = s.osc := rfl
@[simp] theorem State.withShape_voices (s : State) (x : ShapeParams) : (s.withShape x).voices = s.voices := rfl
@[simp] theorem State.withShape_engines (s : State) (x : ShapeParams) : (s.withShape x).engines = s.engines := rfl
@[simp] theorem State.withShape_pw (s : State) (x : ShapeParams) : (s.withShape x).pw = s.pw := rfl
@[simp] theorem State.withShape_mixer (s : State) (x : ShapeParams) : (s.withShape x).mixer = s.mixer := rfl
@[simp] theorem State.withShape_env (s : State) (x : ShapeParams) : (s.withShape x).env = s.env := rfl
@[simp] theorem State.withShape_envMod (s : State) (x : ShapeParams) : (s.withShape x).envMod = s.envMod := rfl
@[simp] theorem State.withShape_lfo (s : State) (x : ShapeParams) : (s.withShape x).lfo = s.lfo := rfl
@[simp] theorem State.withShape_lfoMod (s : State) (x : ShapeParams) : (s.withShape x).lfoMod = s.lfoMod := rfl
@[simp] theorem State.withShape_qVel (s : State) (x : ShapeParams) : (s.withShape x).qVel = s.qVel := rfl
@[simp] theorem State.withShape_vel (s : State) (x : ShapeParams) : (s.withShape x).vel = s.vel := rfl
@[simp] theorem State.withShape_matrix (s : State) (x : ShapeParams) : (s.withShape x).matrix = s.matrix := rfl
@[simp] theorem State.withShape_ui (s : State) (x : ShapeParams) : (s.withShape x).ui = s.ui := rfl
@[simp] theorem State.withShape_filter (s : State) (x : ShapeParams) : (s.withShape x).filter = s.filter := rfl
@[simp] theorem State.withShape_shape (s : State) (x : ShapeParams) : (s.withShape x).shape = x := rfl
@[simp] theorem State.withShape_alloc (s : State) (x : ShapeParams) : (s.withShape x).alloc = s.alloc := rfl
@[simp] theorem State.withShape_clock (s : State) (x : ShapeParams) : (s.withShape x).clock = s.clock := rfl
@[simp] theorem State.withShape_ext (s : State) (x : ShapeParams) : (s.withShape x).ext = s.ext := rfl
@[simp] theorem State.withShape_seq (s : State) (x : ShapeParams) : (s.withShape x).seq = s.seq := rfl
@[simp] theorem State.withShape_arp (s : State) (x : ShapeParams) : (s.withShape x).arp = s.arp := rfl
@[simp] theorem State.withShape_outbox (s : State) (x : ShapeParams) : (s.withShape x).outbox = s.outbox := rfl
@[simp] theorem State.withShape_status (s : State) (x : ShapeParams) : (s.withShape x).status = s.status := rfl
@[simp] theorem State.withShape_mem (s : State) (x : ShapeParams) : (s.withShape x).mem = s.mem := rfl
@[simp] theorem State.withShape_ports (s : State) (x : ShapeParams) : (s.withShape x).ports = s.ports := rfl
@[simp] theorem State.withShape_params (s : State) (x : ShapeParams) : (s.withShape x).params = s.params := rfl
@[simp] theorem State.withShape_inputs (s : State) (x : ShapeParams) : (s.withShape x).inputs = s.inputs := rfl
@[simp] theorem State.withShape_withShape (s : State) (x y : ShapeParams) : (s.withShape x).withShape y = s.withShape y := rfl
@[simp] theorem State.withShape_self (s : State) : s.withShape s.shape = s := rfl

@[simp] theorem State.withAlloc_osc (s : State) (x : Alloc) : (s.withAlloc x).osc = s.osc := rfl
@[simp] theorem State.withAlloc_voices (s : State) (x : Alloc) : (s.withAlloc x).voices = s.voices := rfl
@[simp] theorem State.withAlloc_engines (s : State) (x : Alloc) : (s.withAlloc x).engines = s.engines := rfl
@[simp] theorem State.withAlloc_pw (s : State) (x : Alloc) : (s.withAlloc x).pw = s.pw := rfl
@[simp] theorem State.withAlloc_mixer (s : State) (x : Alloc) : (s.withAlloc x).mixer = s.mixer := rfl
@[simp] theorem State.withAlloc_env (s : State) (x : Alloc) : (s.withAlloc x).env = s.env := rfl
@[simp] theorem State.withAlloc_envMod (s : State) (x : Alloc) : (s.withAlloc x).envMod = s.envMod := rfl
@[simp] theorem State.withAlloc_lfo (s : State) (x : Alloc) : (s.withAlloc x).lfo = s.lfo := rfl
@[simp] theorem State.withAlloc_lfoMod (s : State) (x : Alloc) : (s.withAlloc x).lfoMod = s.lfoMod := rfl
@[simp] theorem State.withAlloc_qVel (s : State) (x : Alloc) : (s.withAlloc x).qVel = s.qVel := rfl
@[simp] theorem State.withAlloc_vel (s : State) (x : Alloc) : (s.withAlloc x).vel = s.vel := rfl
@[simp] theorem State.withAlloc_matrix (s : State) (x : Alloc) : (s.withAlloc x).matrix = s.matrix := rfl
@[simp] theorem State.withAlloc_ui (s : State) (x : Alloc) : (s.withAlloc x).ui = s.ui := rfl
@[simp] theorem State.withAlloc_filter (s : State) (x : Alloc) : (s.withAlloc x).filter = s.filter := rfl
@[simp] theorem State.withAlloc_shape (s : State) (x : Alloc) : (s.withAlloc x).shape = s.shape := rfl
@[simp] theorem State.withAlloc_alloc (s : State) (x : Alloc) : (s.withAlloc x).alloc = x := rfl
@[simp] theorem State.withAlloc_clock (s : State) (x : Alloc) : (s.withAlloc x).clock = s.clock := rfl
@[simp] theorem State.withAlloc_ext (s : State) (x : Alloc) : (s.withAlloc x).ext = s.ext := rfl
@[simp] theorem State.withAlloc_seq (s : State) (x : Alloc) : (s.withAlloc x).seq = s.seq := rfl
@[simp] theorem State.withAlloc_arp (s : State) (x : Alloc) : (s.withAlloc x).arp = s.arp := rfl
@[simp] theorem State.withAlloc_outbox (s : State) (x : Alloc) : (s.withAlloc x).outbox = s.outbox := rfl
@[simp] theorem State.withAlloc_status (s : State) (x : Alloc) : (s.withAlloc x).status = s.status := rfl
@[simp] theorem State.withAlloc_mem (s : State) (x : Alloc) : (s.withAlloc x).mem = s.mem := rfl
@[simp] theorem State.withAlloc_ports (s : State) (x : Alloc) : (s.withAlloc x).ports = s.ports := rfl
@[simp] theorem State.withAlloc_params (s : State) (x : Alloc) : (s.withAlloc x).params = s.params := rfl
@[simp] theorem State.withAlloc_inputs (s : State) (x : Alloc) : (s.withAlloc x).inputs = s.inputs := rfl
@[simp] theorem State.withAlloc_withAlloc (s : State) (x y : Alloc) : (s.withAlloc x).withAlloc y = s.withAlloc y := rfl
@[simp] theorem State.withAlloc_self (s : State) : s.withAlloc s.alloc = s := rfl

@[simp] theorem State.withClock_osc (s : State) (x : Clock) : (s.withClock x).osc = s.osc := rfl
@[simp] theorem State.withClock_voices (s : State) (x : Clock) : (s.withClock x).voices = s.voices := rfl
@[simp] theorem State.withClock_engines (s : State) (x : Clock) : (s.withClock x).engines = s.engines := rfl
@[simp] theorem State.withClock_pw (s : State) (x : Clock) : (s.withClock x).pw = s.pw := rfl
@[simp] theorem State.withClock_mixer (s : State) (x : Clock) : (s.withClock x).mixer = s.mixer := rfl
@[simp] theorem State.withClock_env (s : State) (x : Clock) : (s.withClock x).env = s.env := rfl
@[simp] theorem State.withClock_envMod (s : State) (x : Clock) : (s.withClock x).envMod = s.envMod := rfl
@[simp] theorem State.withClock_lfo (s : State) (x : Clock) : (s.withClock x).lfo = s.lfo := rfl
@[simp] theorem State.withClock_lfoMod (s : State) (x : Clock) : (s.withClock x).lfoMod = s.lfoMod := rfl
@[simp] theorem State.withClock_qVel (s : State) (x : Clock) : (s.withClock x).qVel = s.qVel := rfl
@[simp] theorem State.withClock_vel (s : State) (x : Clock) : (s.withClock x).vel = s.vel := rfl
@[simp] theorem State.withClock_matrix (s : State) (x : Clock) : (s.withClock x).matrix = s.matrix := rfl
@[simp] theorem State.withClock_ui (s : State) (x : Clock) : (s.withClock x).ui = s.ui := rfl
@[simp] theorem State.withClock_filter (s : State) (x : Clock) : (s.withClock x).filter = s.filter := rfl
@[simp] theorem State.withClock_shape (s : State) (x : Clock) : (s.withClock x).shape = s.shape := rfl
@[simp] theorem State.withClock_alloc (s : State) (x : Clock) : (s.withClock x).alloc = s.alloc := rfl
@[simp] theorem State.withClock_clock (s : State) (x : Clock) : (s.withClock x).clock = x := rfl
@[simp] theorem State.withClock_ext (s : State) (x : Clock) : (s.withClock x).ext = s.ext := rfl
@[simp] theorem State.withClock_seq (s : State) (x : Clock) : (s.withClock x).seq = s.seq := rfl
@[simp] theorem State.withClock_arp (s : State) (x : Clock) : (s.withClock x).arp = s.arp := rfl
@[simp] theorem State.withClock_outbox (s : State) (x : Clock) : (s.withClock x).outbox = s.outbox := rfl
@[simp] theorem State.withClock_status (s : State) (x : Clock) : (s.withClock x).status = s.status := rfl
@[simp] theorem State.withClock_mem (s : State) (x : Clock) : (s.withClock x).mem = s.mem := rfl
@[simp] theorem State.withClock_ports (s : State) (x : Clock) : (s.withClock x).ports = s.ports := rfl
@[simp] theorem State.withClock_params (s : State) (x : Clock) : (s.withClock x).params = s.params := rfl
@[simp] theorem State.withClock_inputs (s : State) (x : Clock) : (s.withClock x).inputs = s.inputs := rfl
@[simp] theorem State.withClock_withClock (s : State) (x y : Clock) : (s.withClock x).withClock y = s.withClock y := rfl
@[simp] theorem State.withClock_self (s : State) : s.withClock s.clock = s := rfl

@[simp] theorem State.withExt_osc (s : State) (x : ExtSync) : (s.withExt x).osc = s.osc := rfl
@[simp] theorem State.withExt_voices (s : State) (x : ExtSync) : (s.withExt x).voices = s.voices := rfl
@[simp] theorem State.withExt_engines (s : State) (x : ExtSync) : (s.withExt x).engines = s.engines := rfl
@[simp] theorem State.withExt_pw (s : State) (x : ExtSync) : (s.withExt x).pw = s.pw := rfl
@[simp] theorem State.withExt_mixer (s : State) (x : ExtSync) : (s.withExt x).mixer = s.mixer := rfl
@[simp] theorem State.withExt_env (s : State) (x : ExtSync) : (s.withExt x).env = s.env := rfl
@[simp] theorem State.withExt_envMod (s : State) (x : ExtSync) : (s.withExt x).envMod = s.envMod := rfl
@[simp] theorem State.withExt_lfo (s : State) (x : ExtSync) : (s.withExt x).lfo = s.lfo := rfl
@[simp] theorem State.withExt_lfoMod (s : State) (x : ExtSync) : (s.withExt x).lfoMod = s.lfoMod := rfl
@[simp] theorem State.withExt_qVel (s : State) (x : ExtSync) : (s.withExt x).qVel = s.qVel := rfl
@[simp] theorem State.withExt_vel (s : State) (x : ExtSync) : (s.withExt x).vel = s.vel := rfl
@[simp] theorem State.withExt_matrix (s : State) (x : ExtSync) : (s.withExt x).matrix = s.matrix := rfl
@[simp] theorem State.withExt_ui (s : State) (x : ExtSync) : (s.withExt x).ui = s.ui := rfl
@[simp] theorem State.withExt_filter (s : State) (x : ExtSync) : (s.withExt x).filter = s.filter := rfl
@[simp] theorem State.withExt_shape (s : State) (x : ExtSync) : (s.withExt x).shape = s.shape := rfl
@[simp] theorem State.withExt_alloc (s : State) (x : ExtSync) : (s.withExt x).alloc = s.alloc := rfl
@[simp] theorem State.withExt_clock (s : State) (x : ExtSync) : (s.withExt x).clock = s.clock := rfl
@[simp] theorem State.withExt_ext (s : State) (x : ExtSync) : (s.withExt x).ext = x := rfl
@[simp] theorem State.withExt_seq (s : State) (x : ExtSync) : (s.withExt x).seq = s.seq := rfl
@[simp] theorem State.withExt_arp (s : State) (x : ExtSync) : (s.withExt x).arp = s.arp := rfl
@[simp] theorem State.withExt_outbox (s : State) (x : ExtSync) : (s.withExt x).outbox = s.outbox := rfl
@[simp] theorem State.withExt_status (s : State) (x : ExtSync) : (s.withExt x).status = s.status := rfl
@[simp] theorem State.withExt_mem (s : State) (x : ExtSync) : (s.withExt x).mem = s.mem := rfl
@[simp] theorem State.withExt_ports (s : State) (x : ExtSync) : (s.withExt x).ports = s.ports := rfl
@[simp] theorem State.withExt_params (s : State) (x : ExtSync) : (s.withExt x).params = s.params := rfl
@[simp] theorem State.withExt_inputs (s : State) (x : ExtSync) : (s.withExt x).inputs = s.inputs := rfl
@[simp] theorem State.withExt_withExt (s : State) (x y : ExtSync) : (s.withExt x).withExt y = s.withExt y := rfl
@[simp] theorem State.withExt_self (s : State) : s.withExt s.ext = s := rfl

@[simp] theorem State.withSeq_osc (s : State) (x : Transport) : (s.withSeq x).osc = s.osc := rfl
@[simp] theorem State.withSeq_voices (s : State) (x : Transport) : (s.withSeq x).voices = s.voices := rfl
@[simp] theorem State.withSeq_engines (s : State) (x : Transport) : (s.withSeq x).engines = s.engines := rfl
@[simp] theorem State.withSeq_pw (s : State) (x : Transport) : (s.withSeq x).pw = s.pw := rfl
@[simp] theorem State.withSeq_mixer (s : State) (x : Transport) : (s.withSeq x).mixer = s.mixer := rfl
@[simp] theorem State.withSeq_env (s : State) (x : Transport) : (s.withSeq x).env = s.env := rfl
@[simp] theorem State.withSeq_envMod (s : State) (x : Transport) : (s.withSeq x).envMod = s.envMod := rfl
@[simp] theorem State.withSeq_lfo (s : State) (x : Transport) : (s.withSeq x).lfo = s.lfo := rfl
@[simp] theorem State.withSeq_lfoMod (s : State) (x : Transport) : (s.withSeq x).lfoMod = s.lfoMod := rfl
@[simp] theorem State.withSeq_qVel (s : State) (x : Transport) : (s.withSeq x).qVel = s.qVel := rfl
@[simp] theorem State.withSeq_vel (s : State) (x : Transport) : (s.withSeq x).vel = s.vel := rfl
@[simp] theorem State.withSeq_matrix (s : State) (x : Transport) : (s.withSeq x).matrix = s.matrix := rfl
@[simp] theorem State.withSeq_ui (s : State) (x : Transport) : (s.withSeq x).ui = s.ui := rfl
@[simp] theorem State.withSeq_filter (s : State) (x : Transport) : (s.withSeq x).filter = s.filter := rfl
@[simp] theorem State.withSeq_shape (s : State) (x : Transport) : (s.withSeq x).shape = s.shape := rfl
@[simp] theorem State.withSeq_alloc (s : State) (x : Transport) : (s.withSeq x).alloc = s.alloc := rfl
@[simp] theorem State.withSeq_clock (s : State) (x : Transport) : (s.withSeq x).clock = s.clock := rfl
@[simp] theorem State.withSeq_ext (s : State) (x : Transport) : (s.withSeq x).ext = s.ext := rfl
@[simp] theorem State.withSeq_seq (s : State) (x : Transport) : (s.withSeq x).seq = x := rfl
@[simp] theorem State.withSeq_arp (s : State) (x : Transport) : (s.withSeq x).arp = s.arp := rfl
@[simp] theorem State.withSeq_outbox (s : State) (x : Transport) : (s.withSeq x).outbox = s.outbox := rfl
@[simp] theorem State.withSeq_status (s : State) (x : Transport) : (s.withSeq x).status = s.status := rfl
@[simp] theorem State.withSeq_mem (s : State) (x : Transport) : (s.withSeq x).mem = s.mem := rfl
@[simp] theorem State.withSeq_ports (s : State) (x : Transport) : (s.withSeq x).ports = s.ports := rfl
@[simp] theorem State.withSeq_params (s : State) (x : Transport) : (s.withSeq x).params = s.params := rfl
@[simp] theorem State.withSeq_inputs (s : State) (x : Transport) : (s.withSeq x).inputs = s.inputs := rfl
@[simp] theorem State.withSeq_withSeq (s : State) (x y : Transport) : (s.withSeq x).withSeq y = s.withSeq y := rfl
@[simp] theorem State.withSeq_self (s : State) : s.withSeq s.seq = s := rfl

@[simp] theorem State.withArp_osc (s : State) (x : Arp) : (s.withArp x).osc = s.osc := rfl
@[simp] theorem State.withArp_voices (s : State) (x : Arp) : (s.withArp x).voices = s.voices := rfl
@[simp] theorem State.withArp_engines (s : State) (x : Arp) : (s.withArp x).engines = s.engines := rfl
@[simp] theorem State.withArp_pw (s : State) (x : Arp) : (s.withArp x).pw = s.pw := rfl
@[simp] theorem State.withArp_mixer (s : State) (x : Arp) : (s.withArp x).mixer = s.mixer := rfl
@[simp] theorem State.withArp_env (s : State) (x : Arp) : (s.withArp x).env = s.env := rfl
@[simp] theorem State.withArp_envMod (s : State) (x : Arp) : (s.withArp x).envMod = s.envMod := rfl
@[simp] theorem State.withArp_lfo (s : State) (x : Arp) : (s.withArp x).lfo = s.lfo := rfl
@[simp] theorem State.withArp_lfoMod (s : State) (x : Arp) : (s.withArp x).lfoMod = s.lfoMod := rfl
@[simp] theorem State.withArp_qVel (s : State) (x : Arp) : (s.withArp x).qVel = s.qVel := rfl
@[simp] theorem State.withArp_vel (s : State) (x : Arp) : (s.withArp x).vel = s.vel := rfl
@[simp] theorem State.withArp_matrix (s : State) (x : Arp) : (s.withArp x).matrix = s.matrix := rfl
@[simp] theorem State.withArp_ui (s : State) (x : Arp) : (s.withArp x).ui = s.ui := rfl
@[simp] theorem State.withArp_filter (s : State) (x : Arp) : (s.withArp x).filter = s.filter := rfl
@[simp] theorem State.withArp_shape (s : State) (x : Arp) : (s.withArp x).shape = s.shape := rfl
@[simp] theorem State.withArp_alloc (s : State) (x : Arp) : (s.withArp x).alloc = s.alloc := rfl
@[simp] theorem State.withArp_clock (s : State) (x : Arp) : (s.withArp x).clock = s.clock := rfl
@[simp] theorem State.withArp_ext (s : State) (x : Arp) : (s.withArp x).ext = s.ext := rfl
@[simp] theorem State.withArp_seq (s : State) (x : Arp) : (s.withArp x).seq = s.seq := rfl
@[simp] theorem State.withArp_arp (s : State) (x : Arp) : (s.withArp x).arp = x := rfl
@[simp] theorem State.withArp_outbox (s : State) (x : Arp) : (s.withArp x).outbox = s.outbox := rfl
@[simp] theorem State.withArp_status (s : State) (x : Arp) : (s.withArp x).status = s.status := rfl
@[simp] theorem State.withArp_mem (s : State) (x : Arp) : (s.withArp x).mem = s.mem := rfl
@[simp] theorem State.withArp_ports (s : State) (x : Arp) : (s.withArp x).ports = s.ports := rfl
@[simp] theorem State.withArp_params (s : State) (x : Arp) : (s.withArp x).params = s.params := rfl
@[simp] theorem State.withArp_inputs (s : State) (x : Arp) : (s.withArp x).inputs = s.inputs := rfl
@[simp] theorem State.withArp_withArp (s : State) (x y : Arp) : (s.withArp x).withArp y = s.withArp y := rfl
@[simp] theorem State.withArp_self (s : State) : s.withArp s.arp = s := rfl

@[simp] theorem State.withOutbox_osc (s : State) (x : Outbox) : (s.withOutbox x).osc = s.osc := rfl
@[simp] theorem State.withOutbox_voices (s : State) (x : Outbox) : (s.withOutbox x).voices = s.voices := rfl
@[simp] theorem State.withOutbox_engines (s : State) (x : Outbox) : (s.withOutbox x).engines = s.engines := rfl
@[simp] theorem State.withOutbox_pw (s : State) (x : Outbox) : (s.withOutbox x).pw = s.pw := rfl
@[simp] theorem State.withOutbox_mixer (s : State) (x : Outbox) : (s.withOutbox x).mixer = s.mixer := rfl
@[simp] theorem State.withOutbox_env (s : State) (x : Outbox) : (s.withOutbox x).env = s.env := rfl
@[simp] theorem State.withOutbox_envMod (s : State) (x : Outbox) : (s.withOutbox x).envMod = s.envMod := rfl
@[simp] theorem State.withOutbox_lfo (s : State) (x : Outbox) : (s.withOutbox x).lfo = s.lfo := rfl
@[simp] theorem State.withOutbox_lfoMod (s : State) (x : Outbox) : (s.withOutbox x).lfoMod = s.lfoMod := rfl
@[simp] theorem State.withOutbox_qVel (s : State) (x : Outbox) : (s.withOutbox x).qVel = s.qVel := rfl
@[simp] theorem State.withOutbox_vel (s : State) (x : Outbox) : (s.withOutbox x).vel = s.vel := rfl
@[simp] theorem State.withOutbox_matrix (s : State) (x : Outbox) : (s.withOutbox x).matrix = s.matrix := rfl
@[simp] theorem State.withOutbox_ui (s : State) (x : Outbox) : (s.withOutbox x).ui = s.ui := rfl
@[simp] theorem State.withOutbox_filter (s : State) (x : Outbox) : (s.withOutbox x).filter = s.filter := rfl
@[simp] theorem State.withOutbox_shape (s : State) (x : Outbox) : (s.withOutbox x).shape = s.shape := rfl
@[simp] theorem State.withOutbox_alloc (s : State) (x : Outbox) : (s.withOutbox x).alloc = s.alloc := rfl
@[simp] theorem State.withOutbox_clock (s : State) (x : Outbox) : (s.withOutbox x).clock = s.clock := rfl
@[simp] theorem State.withOutbox_ext (s : State) (x : Outbox) : (s.withOutbox x).ext = s.ext := rfl
@[simp] theorem State.withOutbox_seq (s : State) (x : Outbox) : (s.withOutbox x).seq = s.seq := rfl
@[simp] theorem State.withOutbox_arp (s : State) (x : Outbox) : (s.withOutbox x).arp = s.arp := rfl
@[simp] theorem State.withOutbox_outbox (s : State) (x : Outbox) : (s.withOutbox x).outbox = x := rfl
@[simp] theorem State.withOutbox_status (s : State) (x : Outbox) : (s.withOutbox x).status = s.status := rfl
@[simp] theorem State.withOutbox_mem (s : State) (x : Outbox) : (s.withOutbox x).mem = s.mem := rfl
@[simp] theorem State.withOutbox_ports (s : State) (x : Outbox) : (s.withOutbox x).ports = s.ports := rfl
@[simp] theorem State.withOutbox_params (s : State) (x : Outbox) : (s.withOutbox x).params = s.params := rfl
@[simp] theorem State.withOutbox_inputs (s : State) (x : Outbox) : (s.withOutbox x).inputs = s.inputs := rfl
@[simp] theorem State.withOutbox_withOutbox (s : State) (x y : Outbox) : (s.withOutbox x).withOutbox y = s.withOutbox y := rfl
@[simp] theorem State.withOutbox_self (s : State) : s.withOutbox s.outbox = s := rfl

@[simp] theorem State.withStatus_osc (s : State) (x : Status) : (s.withStatus x).osc = s.osc := rfl
@[simp] theorem State.withStatus_voices (s : State) (x : Status) : (s.withStatus x).voices = s.voices := rfl
@[simp] theorem State.withStatus_engines (s : State) (x : Status) : (s.withStatus x).engines = s.engines := rfl
@[simp] theorem State.withStatus_pw (s : State) (x : Status) : (s.withStatus x).pw = s.pw := rfl
@[simp] theorem State.withStatus_mixer (s : State) (x : Status) : (s.withStatus x).mixer = s.mixer := rfl
@[simp] theorem State.withStatus_env (s : State) (x : Status) : (s.withStatus x).env = s.env := rfl
@[simp] theorem State.withStatus_envMod (s : State) (x : Status) : (s.withStatus x).envMod = s.envMod := rfl
@[simp] theorem State.withStatus_lfo (s : State) (x : Status) : (s.withStatus x).lfo = s.lfo := rfl
@[simp] theorem State.withStatus_lfoMod (s : State) (x : Status) : (s.withStatus x).lfoMod = s.lfoMod := rfl
@[simp] theorem State.withStatus_qVel (s : State) (x : Status) : (s.withStatus x).qVel = s.qVel := rfl
@[simp] theorem State.withStatus_vel (s : State) (x : Status) : (s.withStatus x).vel = s.vel := rfl
@[simp] theorem State.withStatus_matrix (s : State) (x : Status) : (s.withStatus x).matrix = s.matrix := rfl
@[simp] theorem State.withStatus_ui (s : State) (x : Status) : (s.withStatus x).ui = s.ui := rfl
@[simp] theorem State.withStatus_filter (s : State) (x : Status) : (s.withStatus x).filter = s.filter := rfl
@[simp] theorem State.withStatus_shape (s : State) (x : Status) : (s.withStatus x).shape = s.shape := rfl
@[simp] theorem State.withStatus_alloc (s : State) (x : Status) : (s.withStatus x).alloc = s.alloc := rfl
@[simp] theorem State.withStatus_clock (s : State) (x : Status) : (s.withStatus x).clock = s.clock := rfl
@[simp] theorem State.withStatus_ext (s : State) (x : Status) : (s.withStatus x).ext = s.ext := rfl
@[simp] theorem State.withStatus_seq (s : State) (x : Status) : (s.withStatus x).seq = s.seq := rfl
@[simp] theorem State.withStatus_arp (s : State) (x : Status) : (s.withStatus x).arp = s.arp := rfl
@[simp] theorem State.withStatus_outbox (s : State) (x : Status) : (s.withStatus x).outbox = s.outbox := rfl
@[simp] theorem State.withStatus_status (s : State) (x : Status) : (s.withStatus x).status = x := rfl
@[simp] theorem State.withStatus_mem (s : State) (x : Status) : (s.withStatus x).mem = s.mem := rfl
@[simp] theorem State.withStatus_ports (s : State) (x : Status) : (s.withStatus x).ports = s.ports := rfl
@[simp] theorem State.withStatus_params (s : State) (x : Status) : (s.withStatus x).params = s.params := rfl
@[simp] theorem State.withStatus_inputs (s : State) (x : Status) : (s.withStatus x).inputs = s.inputs := rfl
@[simp] theorem State.withStatus_withStatus (s : State) (x y : Status) : (s.withStatus x).withStatus y = s.withStatus y := rfl
@[simp] theorem State.withStatus_self (s : State) : s.withStatus s.status = s := rfl

@[simp] theorem State.withMem_osc (s : State) (x : Memory) : (s.withMem x).osc = s.osc := rfl
@[simp] theorem State.withMem_voices (s : State) (x : Memory) : (s.withMem x).voices = s.voices := rfl
@[simp] theorem State.withMem_engines (s : State) (x : Memory) : (s.withMem x).engines = s.engines := rfl
@[simp] theorem State.withMem_pw (s : State) (x : Memory) : (s.withMem x).pw = s.pw := rfl
@[simp] theorem State.withMem_mixer (s : State) (x : Memory) : (s.withMem x).mixer = s.mixer := rfl
@[simp] theorem State.withMem_env (s : State) (x : Memory) : (s.withMem x).env = s.env := rfl
@[simp] theorem State.withMem_envMod (s : State) (x : Memory) : (s.withMem x).envMod = s.envMod := rfl
@[simp] theorem State.withMem_lfo (s : State) (x : Memory) : (s.withMem x).lfo = s.lfo := rfl
@[simp] theorem State.withMem_lfoMod (s : State) (x : Memory) : (s.withMem x).lfoMod = s.lfoMod := rfl
@[simp] theorem State.withMem_qVel (s : State) (x : Memory) : (s.withMem x).qVel = s.qVel := rfl
@[simp] theorem State.withMem_vel (s : State) (x : Memory) : (s.withMem x).vel = s.vel := rfl
@[simp] theorem State.withMem_matrix (s : State) (x : Memory) : (s.withMem x).matrix = s.matrix := rfl
@[simp] theorem State.withMem_ui (s : State) (x : Memory) : (s.withMem x).ui = s.ui := rfl
@[simp] theorem State.withMem_filter (s : State) (x : Memory) : (s.withMem x).filter = s.filter := rfl
@[simp] theorem State.withMem_shape (s : State) (x : Memory) : (s.withMem x).shape = s.shape := rfl
@[simp] theorem State.withMem_alloc (s : State) (x : Memory) : (s.withMem x).alloc = s.alloc := rfl
@[simp] theorem State.withMem_clock (s : State) (x : Memory) : (s.withMem x).clock = s.clock := rfl
@[simp] theorem State.withMem_ext (s : State) (x : Memory) : (s.withMem x).ext = s.ext := rfl
@[simp] theorem State.withMem_seq (s : State) (x : Memory) : (s.withMem x).seq = s.seq := rfl
@[simp] theorem State.withMem_arp (s : State) (x : Memory) : (s.withMem x).arp = s.arp := rfl
@[simp] theorem State.withMem_outbox (s : State) (x : Memory) : (s.withMem x).outbox = s.outbox := rfl
@[simp] theorem State.withMem_status (s : State) (x : Memory) : (s.withMem x).status = s.status := rfl
@[simp] theorem State.withMem_mem (s : State) (x : Memory) : (s.withMem x).mem = x := rfl
@[simp] theorem State.withMem_ports (s : State) (x : Memory) : (s.withMem x).ports = s.ports := rfl
@[simp] theorem State.withMem_params (s : State) (x : Memory) : (s.withMem x).params = s.params := rfl
@[simp] theorem State.withMem_inputs (s : State) (x : Memory) : (s.withMem x).inputs = s.inputs := rfl
@[simp] theorem State.withMem_withMem (s : State) (x y : Memory) : (s.withMem x).withMem y = s.withMem y := rfl
@[simp] theorem State.withMem_self (s : State) : s.withMem s.mem = s := rfl

@[simp] theorem State.withPorts_osc (s : State) (x : Ports) : (s.withPorts x).osc = s.osc := rfl
@[simp] theorem State.withPorts_voices (s : State) (x : Ports) : (s.withPorts x).voices = s.voices := rfl
@[simp] theorem State.withPorts_engines (s : State) (x : Ports) : (s.withPorts x).engines = s.engines := rfl
@[simp] theorem State.withPorts_pw (s : State) (x : Ports) : (s.withPorts x).pw = s.pw := rfl
@[simp] theorem State.withPorts_mixer (s : State) (x : Ports) : (s.withPorts x).mixer = s.mixer := rfl
@[simp] theorem State.withPorts_env (s : State) (x : Ports) : (s.withPorts x).env = s.env := rfl
@[simp] theorem State.withPorts_envMod (s : State) (x : Ports) : (s.withPorts x).envMod = s.envMod := rfl
@[simp] theorem State.withPorts_lfo (s : State) (x : Ports) : (s.withPorts x).lfo = s.lfo := rfl
@[simp] theorem State.withPorts_lfoMod (s : State) (x : Ports) : (s.withPorts x).lfoMod = s.lfoMod := rfl
@[simp] theorem State.withPorts_qVel (s : State) (x : Ports) : (s.withPorts x).qVel = s.qVel := rfl
@[simp] theorem State.withPorts_vel (s : State) (x : Ports) : (s.withPorts x).vel = s.vel := rfl
@[simp] theorem State.withPorts_matrix (s : State) (x : Ports) : (s.withPorts x).matrix = s.matrix := rfl
@[simp] theorem State.withPorts_ui (s : State) (x : Ports) : (s.withPorts x).ui = s.ui := rfl
@[simp] theorem State.withPorts_filter (s : State) (x : Ports) : (s.withPorts x).filter = s.filter := rfl
@[simp] theorem State.withPorts_shape (s : State) (x : Ports) : (s.withPorts x).shape = s.shape := rfl
@[simp] theorem State.withPorts_alloc (s : State) (x : Ports) : (s.withPorts x).alloc = s.alloc := rfl
@[simp] theorem State.withPorts_clock (s : State) (x : Ports) : (s.withPorts x).clock = s.clock := rfl
@[simp] theorem State.withPorts_ext (s : State) (x : Ports) : (s.withPorts x).ext = s.ext := rfl
@[simp] theorem State.withPorts_seq (s : State) (x : Ports) : (s.withPorts x).seq = s.seq := rfl
@[simp] theorem State.withPorts_arp (s : State) (x : Ports) : (s.withPorts x).arp = s.arp := rfl
@[simp] theorem State.withPorts_outbox (s : State) (x : Ports) : (s.withPorts x).outbox = s.outbox := rfl
@[simp] theorem State.withPorts_status (s : State) (x : Ports) : (s.withPorts x).status = s.status := rfl
@[simp] theorem State.withPorts_mem (s : State) (x : Ports) : (s.withPorts x).mem = s.mem := rfl
@[simp] theorem State.withPorts_ports (s : State) (x : Ports) : (s.withPorts x).ports = x := rfl
@[simp] theorem State.withPorts_params (s : State) (x : Ports) : (s.withPorts x).params = s.params := rfl
@[simp] theorem State.withPorts_inputs (s : State) (x : Ports) : (s.withPorts x).inputs = s.inputs := rfl
@[simp] theorem State.withPorts_withPorts (s : State) (x y : Ports) : (s.withPorts x).withPorts y = s.withPorts y := rfl
@[simp] theorem State.withPorts_self (s : State) : s.withPorts s.ports = s := rfl

@[simp] theorem State.withParams_osc (s : State) (x : Params) : (s.withParams x).osc = s.osc := rfl
@[simp] theorem State.withParams_voices (s : State) (x : Params) : (s.withParams x).voices = s.voices := rfl
@[simp] theorem State.withParams_engines (s : State) (x : Params) : (s.withParams x).engines = s.engines := rfl
@[simp] theorem State.withParams_pw (s : State) (x : Params) : (s.withParams x).pw = s.pw := rfl
@[simp] theorem State.withParams_mixer (s : State) (x : Params) : (s.withParams x).mixer = s.mixer := rfl
@[simp] theorem State.withParams_env (s : State) (x : Params) : (s.withParams x).env = s.env := rfl
@[simp] theorem State.withParams_envMod (s : State) (x : Params) : (s.withParams x).envMod = s.envMod := rfl
@[simp] theorem State.withParams_lfo (s : State) (x : Params) : (s.withParams x).lfo = s.lfo := rfl
@[simp] theorem State.withParams_lfoMod (s : State) (x : Params) : (s.withParams x).lfoMod = s.lfoMod := rfl
@[simp] theorem State.withParams_qVel (s : State) (x : Params) : (s.withParams x).qVel = s.qVel := rfl
@[simp] theorem State.withParams_vel (s : State) (x : Params) : (s.withParams x).vel = s.vel := rfl
@[simp] theorem State.withParams_matrix (s : State) (x : Params) : (s.withParams x).matrix = s.matrix := rfl
@[simp] theorem State.withParams_ui (s : State) (x : Params) : (s.withParams x).ui = s.ui := rfl
@[simp] theorem State.withParams_filter (s : State) (x : Params) : (s.withParams x).filter = s.filter := rfl
@[simp] theorem State.withParams_shape (s : State) (x : Params) : (s.withParams x).shape = s.shape := rfl
@[simp] theorem State.withParams_alloc (s : State) (x : Params) : (s.withParams x).alloc = s.alloc := rfl
@[simp] theorem State.withParams_clock (s : State) (x : Params) : (s.withParams x).clock = s.clock := rfl
@[simp] theorem State.withParams_ext (s : State) (x : Params) : (s.withParams x).ext = s.ext := rfl
@[simp] theorem State.withParams_seq (s : State) (x : Params) : (s.withParams x).seq = s.seq := rfl
@[simp] theorem State.withParams_arp (s : State) (x : Params) : (s.withParams x).arp = s.arp := rfl
@[simp] theorem State.withParams_outbox (s : State) (x : Params) : (s.withParams x).outbox = s.outbox := rfl
@[simp] theorem State.withParams_status (s : State) (x : Params) : (s.withParams x).status = s.status := rfl
@[simp] theorem State.withParams_mem (s : State) (x : Params) : (s.withParams x).mem = s.mem := rfl
@[simp] theorem State.withParams_ports (s : State) (x : Params) : (s.withParams x).ports = s.ports := rfl
@[simp] theorem State.withParams_params (s : State) (x : Params) : (s.withParams x).params = x := rfl
@[simp] theorem State.withParams_inputs (s : State) (x : Params) : (s.withParams x).inputs = s.inputs := rfl
@[simp] theorem State.withParams_withParams (s : State) (x y : Params) : (s.withParams x).withParams y = s.withParams y := rfl
@[simp] theorem State.withParams_self (s : State) : s.withParams s.params = s := rfl

@[simp] theorem State.withInputs_osc (s : State) (x : Inputs) : (s.withInputs x).osc = s.osc := rfl
@[simp] theorem State.withInputs_voices (s : State) (x : Inputs) : (s.withInputs x).voices = s.voices := rfl
@[simp] theorem State.withInputs_engines (s : State) (x : Inputs) : (s.withInputs x).engines = s.engines := rfl
@[simp] theorem State.withInputs_pw (s : State) (x : Inputs) : (s.withInputs x).pw = s.pw := rfl
@[simp] theorem State.withInputs_mixer (s : State) (x : Inputs) : (s.withInputs x).mixer = s.mixer := rfl
@[simp] theorem State.withInputs_env (s : State) (x : Inputs) : (s.withInputs x).env = s.env := rfl
@[simp] theorem State.withInputs_envMod (s : State) (x : Inputs) : (s.withInputs x).envMod = s.envMod := rfl
@[simp] theorem State.withInputs_lfo (s : State) (x : Inputs) : (s.withInputs x).lfo = s.lfo := rfl
@[simp] theorem State.withInputs_lfoMod (s : State) (x : Inputs) : (s.withInputs x).lfoMod = s.lfoMod := rfl
@[simp] theorem State.withInputs_qVel (s : State) (x : Inputs) : (s.withInputs x).qVel = s.qVel := rfl
@[simp] theorem State.withInputs_vel (s : State) (x : Inputs) : (s.withInputs x).vel = s.vel := rfl
@[simp] theorem State.withInputs_matrix (s : State) (x : Inputs) : (s.withInputs x).matrix = s.matrix := rfl
@[simp] theorem State.withInputs_ui (s : State) (x : Inputs) : (s.withInputs x).ui = s.ui := rfl
@[simp] theorem State.withInputs_filter (s : State) (x : Inputs) : (s.withInputs x).filter = s.filter := rfl
@[simp] theorem State.withInputs_shape (s : State) (x : Inputs) : (s.withInputs x).shape = s.shape := rfl
@[simp] theorem State.withInputs_alloc (s : State) (x : Inputs) : (s.withInputs x).alloc = s.alloc := rfl
@[simp] theorem State.withInputs_clock (s : State) (x : Inputs) : (s.withInputs x).clock = s.clock := rfl
@[simp] theorem State.withInputs_ext (s : State) (x : Inputs) : (s.withInputs x).ext = s.ext := rfl
@[simp] theorem State.withInputs_seq (s : State) (x : Inputs) : (s.withInputs x).seq = s.seq := rfl
@[simp] theorem State.withInputs_arp (s : State) (x : Inputs) : (s.withInputs x).arp = s.arp := rfl
@[simp] theorem State.withInputs_outbox (s : State) (x : Inputs) : (s.withInputs x).outbox = s.outbox := rfl
@[simp] theorem State.withInputs_status (s : State) (x : Inputs) : (s.withInputs x).status = s.status := rfl
@[simp] theorem State.withInputs_mem (s : State) (x : Inputs) : (s.withInputs x).mem = s.mem := rfl
@[simp] theorem State.withInputs_ports (s : State) (x : Inputs) : (s.withInputs x).ports = s.ports := rfl
@[simp] theorem State.withInputs_params (s : State) (x : Inputs) : (s.withInputs x).params = s.params := rfl
@[simp] theorem State.withInputs_inputs (s : State) (x : Inputs) : (s.withInputs x).inputs = x := rfl
@[simp] theorem State.withInputs_withInputs (s : State) (x y : Inputs) : (s.withInputs x).withInputs y = s.withInputs y := rfl
@[simp] theorem State.withInputs_self (s : State) : s.withInputs s.inputs = s := rfl

/-- Two states with equal blocks, configurations and inputs are equal. -/
theorem State.ext_parts {s t : State} (b : s.toBlock = t.toBlock) (p : s.params = t.params) (x : s.inputs = t.inputs) :
    s = t := by
  cases s; cases t; simp_all

end Sys2Proof.Machine
end

