-- ==== Sys2Proof/Laws/Frames.lean ====
section
/-! SUPPORT. The frame of every shared operation: which parts of the state it leaves as they were. Each lemma is a
conjunction, which simp uses one part at a time. -/

namespace Sys2Proof.Machine

theorem forVoices_frame {α : Type} (g : State → α) (f : Fin 4 → State → State)
    (h : ∀ v s, g (f v s) = g s) (s : State) : g (forVoices f s) = g s := by simp [forVoices, h]

@[simp] theorem State.mapVoices_frame (f : Voice → Voice) (s : State) :
    (s.mapVoices f).osc = s.osc ∧ (s.mapVoices f).engines = s.engines ∧ (s.mapVoices f).pw = s.pw ∧
    (s.mapVoices f).mixer = s.mixer ∧ (s.mapVoices f).env = s.env ∧ (s.mapVoices f).envMod = s.envMod ∧
    (s.mapVoices f).lfo = s.lfo ∧ (s.mapVoices f).lfoMod = s.lfoMod ∧ (s.mapVoices f).qVel = s.qVel ∧
    (s.mapVoices f).vel = s.vel ∧ (s.mapVoices f).matrix = s.matrix ∧ (s.mapVoices f).ui = s.ui ∧
    (s.mapVoices f).filter = s.filter ∧ (s.mapVoices f).shape = s.shape ∧ (s.mapVoices f).alloc = s.alloc ∧
    (s.mapVoices f).clock = s.clock ∧ (s.mapVoices f).ext = s.ext ∧ (s.mapVoices f).seq = s.seq ∧
    (s.mapVoices f).arp = s.arp ∧ (s.mapVoices f).outbox = s.outbox ∧ (s.mapVoices f).status = s.status ∧
    (s.mapVoices f).mem = s.mem ∧ (s.mapVoices f).ports = s.ports ∧ (s.mapVoices f).params = s.params ∧
    (s.mapVoices f).inputs = s.inputs := by
  refine ⟨rfl, rfl, rfl, rfl, rfl, rfl, rfl, rfl, rfl, rfl, rfl, rfl, rfl, rfl, rfl, rfl, rfl, rfl, rfl, rfl, rfl, rfl, rfl, rfl, rfl⟩

@[simp] theorem State.setVoice_frame (v : Fin 4) (x : Voice) (s : State) :
    (s.setVoice v x).osc = s.osc ∧ (s.setVoice v x).engines = s.engines ∧ (s.setVoice v x).pw = s.pw ∧
    (s.setVoice v x).mixer = s.mixer ∧ (s.setVoice v x).env = s.env ∧ (s.setVoice v x).envMod = s.envMod ∧
    (s.setVoice v x).lfo = s.lfo ∧ (s.setVoice v x).lfoMod = s.lfoMod ∧ (s.setVoice v x).qVel = s.qVel ∧
    (s.setVoice v x).vel = s.vel ∧ (s.setVoice v x).matrix = s.matrix ∧ (s.setVoice v x).ui = s.ui ∧
    (s.setVoice v x).filter = s.filter ∧ (s.setVoice v x).shape = s.shape ∧ (s.setVoice v x).alloc = s.alloc ∧
    (s.setVoice v x).clock = s.clock ∧ (s.setVoice v x).ext = s.ext ∧ (s.setVoice v x).seq = s.seq ∧
    (s.setVoice v x).arp = s.arp ∧ (s.setVoice v x).outbox = s.outbox ∧ (s.setVoice v x).status = s.status ∧
    (s.setVoice v x).mem = s.mem ∧ (s.setVoice v x).ports = s.ports ∧ (s.setVoice v x).params = s.params ∧
    (s.setVoice v x).inputs = s.inputs := by
  refine ⟨rfl, rfl, rfl, rfl, rfl, rfl, rfl, rfl, rfl, rfl, rfl, rfl, rfl, rfl, rfl, rfl, rfl, rfl, rfl, rfl, rfl, rfl, rfl, rfl, rfl⟩

@[simp] theorem State.setOsc_frame (o : Fin 8) (x : Osc) (s : State) :
    (s.setOsc o x).voices = s.voices ∧ (s.setOsc o x).engines = s.engines ∧ (s.setOsc o x).pw = s.pw ∧
    (s.setOsc o x).mixer = s.mixer ∧ (s.setOsc o x).env = s.env ∧ (s.setOsc o x).envMod = s.envMod ∧
    (s.setOsc o x).lfo = s.lfo ∧ (s.setOsc o x).lfoMod = s.lfoMod ∧ (s.setOsc o x).qVel = s.qVel ∧
    (s.setOsc o x).vel = s.vel ∧ (s.setOsc o x).matrix = s.matrix ∧ (s.setOsc o x).ui = s.ui ∧
    (s.setOsc o x).filter = s.filter ∧ (s.setOsc o x).shape = s.shape ∧ (s.setOsc o x).alloc = s.alloc ∧
    (s.setOsc o x).clock = s.clock ∧ (s.setOsc o x).ext = s.ext ∧ (s.setOsc o x).seq = s.seq ∧
    (s.setOsc o x).arp = s.arp ∧ (s.setOsc o x).outbox = s.outbox ∧ (s.setOsc o x).status = s.status ∧
    (s.setOsc o x).mem = s.mem ∧ (s.setOsc o x).ports = s.ports ∧ (s.setOsc o x).params = s.params ∧
    (s.setOsc o x).inputs = s.inputs := by
  refine ⟨rfl, rfl, rfl, rfl, rfl, rfl, rfl, rfl, rfl, rfl, rfl, rfl, rfl, rfl, rfl, rfl, rfl, rfl, rfl, rfl, rfl, rfl, rfl, rfl, rfl⟩

@[simp] theorem State.setEngine_frame (e : Fin 2) (x : Engine) (s : State) :
    (s.setEngine e x).osc = s.osc ∧ (s.setEngine e x).voices = s.voices ∧ (s.setEngine e x).pw = s.pw ∧
    (s.setEngine e x).mixer = s.mixer ∧ (s.setEngine e x).env = s.env ∧ (s.setEngine e x).envMod = s.envMod ∧
    (s.setEngine e x).lfo = s.lfo ∧ (s.setEngine e x).lfoMod = s.lfoMod ∧ (s.setEngine e x).qVel = s.qVel ∧
    (s.setEngine e x).vel = s.vel ∧ (s.setEngine e x).matrix = s.matrix ∧ (s.setEngine e x).ui = s.ui ∧
    (s.setEngine e x).filter = s.filter ∧ (s.setEngine e x).shape = s.shape ∧ (s.setEngine e x).alloc = s.alloc ∧
    (s.setEngine e x).clock = s.clock ∧ (s.setEngine e x).ext = s.ext ∧ (s.setEngine e x).seq = s.seq ∧
    (s.setEngine e x).arp = s.arp ∧ (s.setEngine e x).outbox = s.outbox ∧ (s.setEngine e x).status = s.status ∧
    (s.setEngine e x).mem = s.mem ∧ (s.setEngine e x).ports = s.ports ∧ (s.setEngine e x).params = s.params ∧
    (s.setEngine e x).inputs = s.inputs := by
  refine ⟨rfl, rfl, rfl, rfl, rfl, rfl, rfl, rfl, rfl, rfl, rfl, rfl, rfl, rfl, rfl, rfl, rfl, rfl, rfl, rfl, rfl, rfl, rfl, rfl, rfl⟩

@[simp] theorem phaseAdvance_frame (s : State) :
    (phaseAdvance s).voices = s.voices ∧ (phaseAdvance s).engines = s.engines ∧ (phaseAdvance s).pw = s.pw ∧
    (phaseAdvance s).mixer = s.mixer ∧ (phaseAdvance s).env = s.env ∧ (phaseAdvance s).envMod = s.envMod ∧
    (phaseAdvance s).lfo = s.lfo ∧ (phaseAdvance s).lfoMod = s.lfoMod ∧ (phaseAdvance s).qVel = s.qVel ∧
    (phaseAdvance s).vel = s.vel ∧ (phaseAdvance s).matrix = s.matrix ∧ (phaseAdvance s).ui = s.ui ∧
    (phaseAdvance s).filter = s.filter ∧ (phaseAdvance s).shape = s.shape ∧ (phaseAdvance s).alloc = s.alloc ∧
    (phaseAdvance s).clock = s.clock ∧ (phaseAdvance s).ext = s.ext ∧ (phaseAdvance s).seq = s.seq ∧
    (phaseAdvance s).arp = s.arp ∧ (phaseAdvance s).outbox = s.outbox ∧ (phaseAdvance s).status = s.status ∧
    (phaseAdvance s).mem = s.mem ∧ (phaseAdvance s).ports = s.ports ∧ (phaseAdvance s).params = s.params ∧
    (phaseAdvance s).inputs = s.inputs := by
  refine ⟨rfl, rfl, rfl, rfl, rfl, rfl, rfl, rfl, rfl, rfl, rfl, rfl, rfl, rfl, rfl, rfl, rfl, rfl, rfl, rfl, rfl, rfl, rfl, rfl, rfl⟩

@[simp] theorem deriveIncrements_frame (s : State) :
    (deriveIncrements s).engines = s.engines ∧ (deriveIncrements s).pw = s.pw ∧
    (deriveIncrements s).mixer = s.mixer ∧ (deriveIncrements s).env = s.env ∧
    (deriveIncrements s).envMod = s.envMod ∧ (deriveIncrements s).lfo = s.lfo ∧
    (deriveIncrements s).lfoMod = s.lfoMod ∧ (deriveIncrements s).qVel = s.qVel ∧
    (deriveIncrements s).vel = s.vel ∧ (deriveIncrements s).matrix = s.matrix ∧ (deriveIncrements s).ui = s.ui ∧
    (deriveIncrements s).filter = s.filter ∧ (deriveIncrements s).shape = s.shape ∧
    (deriveIncrements s).alloc = s.alloc ∧ (deriveIncrements s).clock = s.clock ∧
    (deriveIncrements s).ext = s.ext ∧ (deriveIncrements s).seq = s.seq ∧ (deriveIncrements s).arp = s.arp ∧
    (deriveIncrements s).outbox = s.outbox ∧ (deriveIncrements s).status = s.status ∧
    (deriveIncrements s).mem = s.mem ∧ (deriveIncrements s).ports = s.ports ∧
    (deriveIncrements s).params = s.params ∧ (deriveIncrements s).inputs = s.inputs := by
  refine ⟨rfl, rfl, rfl, rfl, rfl, rfl, rfl, rfl, rfl, rfl, rfl, rfl, rfl, rfl, rfl, rfl, rfl, rfl, rfl, rfl, rfl, rfl, rfl, rfl⟩

@[simp] theorem updatePulseWidth_frame (s : State) :
    (updatePulseWidth s).osc = s.osc ∧ (updatePulseWidth s).voices = s.voices ∧
    (updatePulseWidth s).engines = s.engines ∧ (updatePulseWidth s).mixer = s.mixer ∧
    (updatePulseWidth s).env = s.env ∧ (updatePulseWidth s).envMod = s.envMod ∧ (updatePulseWidth s).lfo = s.lfo ∧
    (updatePulseWidth s).lfoMod = s.lfoMod ∧ (updatePulseWidth s).qVel = s.qVel ∧
    (updatePulseWidth s).vel = s.vel ∧ (updatePulseWidth s).matrix = s.matrix ∧ (updatePulseWidth s).ui = s.ui ∧
    (updatePulseWidth s).filter = s.filter ∧ (updatePulseWidth s).shape = s.shape ∧
    (updatePulseWidth s).alloc = s.alloc ∧ (updatePulseWidth s).clock = s.clock ∧
    (updatePulseWidth s).ext = s.ext ∧ (updatePulseWidth s).seq = s.seq ∧ (updatePulseWidth s).arp = s.arp ∧
    (updatePulseWidth s).outbox = s.outbox ∧ (updatePulseWidth s).status = s.status ∧
    (updatePulseWidth s).mem = s.mem ∧ (updatePulseWidth s).ports = s.ports ∧
    (updatePulseWidth s).params = s.params ∧ (updatePulseWidth s).inputs = s.inputs := by
  refine ⟨rfl, rfl, rfl, rfl, rfl, rfl, rfl, rfl, rfl, rfl, rfl, rfl, rfl, rfl, rfl, rfl, rfl, rfl, rfl, rfl, rfl, rfl, rfl, rfl, rfl⟩

@[simp] theorem updateFilterCoef_frame (s : State) :
    (updateFilterCoef s).osc = s.osc ∧ (updateFilterCoef s).voices = s.voices ∧
    (updateFilterCoef s).engines = s.engines ∧ (updateFilterCoef s).pw = s.pw ∧
    (updateFilterCoef s).mixer = s.mixer ∧ (updateFilterCoef s).env = s.env ∧
    (updateFilterCoef s).envMod = s.envMod ∧ (updateFilterCoef s).lfo = s.lfo ∧
    (updateFilterCoef s).lfoMod = s.lfoMod ∧ (updateFilterCoef s).qVel = s.qVel ∧
    (updateFilterCoef s).vel = s.vel ∧ (updateFilterCoef s).matrix = s.matrix ∧ (updateFilterCoef s).ui = s.ui ∧
    (updateFilterCoef s).shape = s.shape ∧ (updateFilterCoef s).alloc = s.alloc ∧
    (updateFilterCoef s).clock = s.clock ∧ (updateFilterCoef s).ext = s.ext ∧ (updateFilterCoef s).seq = s.seq ∧
    (updateFilterCoef s).arp = s.arp ∧ (updateFilterCoef s).outbox = s.outbox ∧
    (updateFilterCoef s).status = s.status ∧ (updateFilterCoef s).mem = s.mem ∧
    (updateFilterCoef s).ports = s.ports ∧ (updateFilterCoef s).params = s.params ∧
    (updateFilterCoef s).inputs = s.inputs := by
  refine ⟨rfl, rfl, rfl, rfl, rfl, rfl, rfl, rfl, rfl, rfl, rfl, rfl, rfl, rfl, rfl, rfl, rfl, rfl, rfl, rfl, rfl, rfl, rfl, rfl, rfl⟩

@[simp] theorem queueVelocity_frame (s : State) :
    (queueVelocity s).osc = s.osc ∧ (queueVelocity s).voices = s.voices ∧ (queueVelocity s).engines = s.engines ∧
    (queueVelocity s).pw = s.pw ∧ (queueVelocity s).mixer = s.mixer ∧ (queueVelocity s).env = s.env ∧
    (queueVelocity s).envMod = s.envMod ∧ (queueVelocity s).lfo = s.lfo ∧ (queueVelocity s).lfoMod = s.lfoMod ∧
    (queueVelocity s).vel = s.vel ∧ (queueVelocity s).matrix = s.matrix ∧ (queueVelocity s).ui = s.ui ∧
    (queueVelocity s).filter = s.filter ∧ (queueVelocity s).shape = s.shape ∧ (queueVelocity s).alloc = s.alloc ∧
    (queueVelocity s).clock = s.clock ∧ (queueVelocity s).ext = s.ext ∧ (queueVelocity s).seq = s.seq ∧
    (queueVelocity s).arp = s.arp ∧ (queueVelocity s).outbox = s.outbox ∧ (queueVelocity s).status = s.status ∧
    (queueVelocity s).mem = s.mem ∧ (queueVelocity s).ports = s.ports ∧ (queueVelocity s).params = s.params ∧
    (queueVelocity s).inputs = s.inputs := by
  refine ⟨rfl, rfl, rfl, rfl, rfl, rfl, rfl, rfl, rfl, rfl, rfl, rfl, rfl, rfl, rfl, rfl, rfl, rfl, rfl, rfl, rfl, rfl, rfl, rfl, rfl⟩

@[simp] theorem envOutputs_frame (s : State) :
    (envOutputs s).osc = s.osc ∧ (envOutputs s).voices = s.voices ∧ (envOutputs s).engines = s.engines ∧
    (envOutputs s).pw = s.pw ∧ (envOutputs s).mixer = s.mixer ∧ (envOutputs s).env = s.env ∧
    (envOutputs s).lfo = s.lfo ∧ (envOutputs s).lfoMod = s.lfoMod ∧ (envOutputs s).qVel = s.qVel ∧
    (envOutputs s).vel = s.vel ∧ (envOutputs s).matrix = s.matrix ∧ (envOutputs s).ui = s.ui ∧
    (envOutputs s).filter = s.filter ∧ (envOutputs s).shape = s.shape ∧ (envOutputs s).alloc = s.alloc ∧
    (envOutputs s).clock = s.clock ∧ (envOutputs s).ext = s.ext ∧ (envOutputs s).seq = s.seq ∧
    (envOutputs s).arp = s.arp ∧ (envOutputs s).outbox = s.outbox ∧ (envOutputs s).status = s.status ∧
    (envOutputs s).mem = s.mem ∧ (envOutputs s).ports = s.ports ∧ (envOutputs s).params = s.params ∧
    (envOutputs s).inputs = s.inputs := by
  refine ⟨rfl, rfl, rfl, rfl, rfl, rfl, rfl, rfl, rfl, rfl, rfl, rfl, rfl, rfl, rfl, rfl, rfl, rfl, rfl, rfl, rfl, rfl, rfl, rfl, rfl⟩

@[simp] theorem retrigLfo_frame (s : State) :
    (retrigLfo s).osc = s.osc ∧ (retrigLfo s).voices = s.voices ∧ (retrigLfo s).engines = s.engines ∧
    (retrigLfo s).pw = s.pw ∧ (retrigLfo s).mixer = s.mixer ∧ (retrigLfo s).env = s.env ∧
    (retrigLfo s).envMod = s.envMod ∧ (retrigLfo s).lfoMod = s.lfoMod ∧ (retrigLfo s).qVel = s.qVel ∧
    (retrigLfo s).vel = s.vel ∧ (retrigLfo s).matrix = s.matrix ∧ (retrigLfo s).ui = s.ui ∧
    (retrigLfo s).filter = s.filter ∧ (retrigLfo s).shape = s.shape ∧ (retrigLfo s).alloc = s.alloc ∧
    (retrigLfo s).clock = s.clock ∧ (retrigLfo s).ext = s.ext ∧ (retrigLfo s).seq = s.seq ∧
    (retrigLfo s).arp = s.arp ∧ (retrigLfo s).outbox = s.outbox ∧ (retrigLfo s).status = s.status ∧
    (retrigLfo s).mem = s.mem ∧ (retrigLfo s).ports = s.ports ∧ (retrigLfo s).params = s.params ∧
    (retrigLfo s).inputs = s.inputs := by
  unfold retrigLfo; split <;> simp

@[simp] theorem enterAttack_frame (s : State) :
    (enterAttack s).engines = s.engines ∧ (enterAttack s).mixer = s.mixer ∧ (enterAttack s).lfoMod = s.lfoMod ∧
    (enterAttack s).qVel = s.qVel ∧ (enterAttack s).matrix = s.matrix ∧ (enterAttack s).ui = s.ui ∧
    (enterAttack s).shape = s.shape ∧ (enterAttack s).alloc = s.alloc ∧ (enterAttack s).clock = s.clock ∧
    (enterAttack s).ext = s.ext ∧ (enterAttack s).seq = s.seq ∧ (enterAttack s).arp = s.arp ∧
    (enterAttack s).outbox = s.outbox ∧ (enterAttack s).status = s.status ∧ (enterAttack s).mem = s.mem ∧
    (enterAttack s).ports = s.ports ∧ (enterAttack s).params = s.params ∧ (enterAttack s).inputs = s.inputs := by
  simp [enterAttack]

@[simp] theorem envTrigStep_frame (s : State) :
    (envTrigStep s).engines = s.engines ∧ (envTrigStep s).mixer = s.mixer ∧ (envTrigStep s).lfoMod = s.lfoMod ∧
    (envTrigStep s).qVel = s.qVel ∧ (envTrigStep s).matrix = s.matrix ∧ (envTrigStep s).ui = s.ui ∧
    (envTrigStep s).shape = s.shape ∧ (envTrigStep s).alloc = s.alloc ∧ (envTrigStep s).clock = s.clock ∧
    (envTrigStep s).ext = s.ext ∧ (envTrigStep s).seq = s.seq ∧ (envTrigStep s).arp = s.arp ∧
    (envTrigStep s).outbox = s.outbox ∧ (envTrigStep s).status = s.status ∧ (envTrigStep s).mem = s.mem ∧
    (envTrigStep s).ports = s.ports ∧ (envTrigStep s).params = s.params ∧ (envTrigStep s).inputs = s.inputs := by
  unfold envTrigStep; split <;> simp

@[simp] theorem envTriggerWith_frame (vel : Int) (s : State) :
    (envTriggerWith vel s).engines = s.engines ∧ (envTriggerWith vel s).mixer = s.mixer ∧
    (envTriggerWith vel s).lfoMod = s.lfoMod ∧ (envTriggerWith vel s).matrix = s.matrix ∧
    (envTriggerWith vel s).ui = s.ui ∧ (envTriggerWith vel s).shape = s.shape ∧
    (envTriggerWith vel s).alloc = s.alloc ∧ (envTriggerWith vel s).clock = s.clock ∧
    (envTriggerWith vel s).ext = s.ext ∧ (envTriggerWith vel s).seq = s.seq ∧ (envTriggerWith vel s).arp = s.arp ∧
    (envTriggerWith vel s).outbox = s.outbox ∧ (envTriggerWith vel s).status = s.status ∧
    (envTriggerWith vel s).mem = s.mem ∧ (envTriggerWith vel s).ports = s.ports ∧
    (envTriggerWith vel s).params = s.params ∧ (envTriggerWith vel s).inputs = s.inputs := by
  simp [envTriggerWith]

@[simp] theorem envReleaseNow_frame (s : State) :
    (envReleaseNow s).osc = s.osc ∧ (envReleaseNow s).voices = s.voices ∧ (envReleaseNow s).engines = s.engines ∧
    (envReleaseNow s).pw = s.pw ∧ (envReleaseNow s).mixer = s.mixer ∧ (envReleaseNow s).envMod = s.envMod ∧
    (envReleaseNow s).lfo = s.lfo ∧ (envReleaseNow s).lfoMod = s.lfoMod ∧ (envReleaseNow s).qVel = s.qVel ∧
    (envReleaseNow s).vel = s.vel ∧ (envReleaseNow s).matrix = s.matrix ∧ (envReleaseNow s).ui = s.ui ∧
    (envReleaseNow s).filter = s.filter ∧ (envReleaseNow s).shape = s.shape ∧ (envReleaseNow s).alloc = s.alloc ∧
    (envReleaseNow s).clock = s.clock ∧ (envReleaseNow s).ext = s.ext ∧ (envReleaseNow s).seq = s.seq ∧
    (envReleaseNow s).arp = s.arp ∧ (envReleaseNow s).outbox = s.outbox ∧ (envReleaseNow s).status = s.status ∧
    (envReleaseNow s).mem = s.mem ∧ (envReleaseNow s).ports = s.ports ∧ (envReleaseNow s).params = s.params ∧
    (envReleaseNow s).inputs = s.inputs := by
  simp only [envReleaseNow]
  repeat' split
  all_goals simp

@[simp] theorem envComplete_frame (s : State) :
    (envComplete s).osc = s.osc ∧ (envComplete s).engines = s.engines ∧ (envComplete s).pw = s.pw ∧
    (envComplete s).mixer = s.mixer ∧ (envComplete s).lfo = s.lfo ∧ (envComplete s).lfoMod = s.lfoMod ∧
    (envComplete s).qVel = s.qVel ∧ (envComplete s).vel = s.vel ∧ (envComplete s).matrix = s.matrix ∧
    (envComplete s).ui = s.ui ∧ (envComplete s).shape = s.shape ∧ (envComplete s).clock = s.clock ∧
    (envComplete s).ext = s.ext ∧ (envComplete s).seq = s.seq ∧ (envComplete s).arp = s.arp ∧
    (envComplete s).outbox = s.outbox ∧ (envComplete s).status = s.status ∧ (envComplete s).mem = s.mem ∧
    (envComplete s).ports = s.ports ∧ (envComplete s).params = s.params ∧ (envComplete s).inputs = s.inputs := by
  refine ⟨rfl, rfl, rfl, rfl, rfl, rfl, rfl, rfl, rfl, rfl, rfl, rfl, rfl, rfl, rfl, rfl, rfl, rfl, rfl, rfl, rfl⟩

@[simp] theorem envEvaluated_frame (s : State) :
    (envEvaluated s).engines = s.engines ∧ (envEvaluated s).pw = s.pw ∧ (envEvaluated s).mixer = s.mixer ∧
    (envEvaluated s).env = s.env ∧ (envEvaluated s).lfo = s.lfo ∧ (envEvaluated s).lfoMod = s.lfoMod ∧
    (envEvaluated s).qVel = s.qVel ∧ (envEvaluated s).vel = s.vel ∧ (envEvaluated s).matrix = s.matrix ∧
    (envEvaluated s).ui = s.ui ∧ (envEvaluated s).shape = s.shape ∧ (envEvaluated s).alloc = s.alloc ∧
    (envEvaluated s).clock = s.clock ∧ (envEvaluated s).ext = s.ext ∧ (envEvaluated s).seq = s.seq ∧
    (envEvaluated s).arp = s.arp ∧ (envEvaluated s).outbox = s.outbox ∧ (envEvaluated s).status = s.status ∧
    (envEvaluated s).mem = s.mem ∧ (envEvaluated s).ports = s.ports ∧ (envEvaluated s).params = s.params ∧
    (envEvaluated s).inputs = s.inputs := by
  refine ⟨rfl, rfl, rfl, rfl, rfl, rfl, rfl, rfl, rfl, rfl, rfl, rfl, rfl, rfl, rfl, rfl, rfl, rfl, rfl, rfl, rfl, rfl⟩

@[simp] theorem enterStage_frame (stage : Stage) (level : Int) (s : State) :
    (enterStage stage level s).osc = s.osc ∧ (enterStage stage level s).voices = s.voices ∧
    (enterStage stage level s).engines = s.engines ∧ (enterStage stage level s).pw = s.pw ∧
    (enterStage stage level s).mixer = s.mixer ∧ (enterStage stage level s).envMod = s.envMod ∧
    (enterStage stage level s).lfo = s.lfo ∧ (enterStage stage level s).lfoMod = s.lfoMod ∧
    (enterStage stage level s).qVel = s.qVel ∧ (enterStage stage level s).vel = s.vel ∧
    (enterStage stage level s).matrix = s.matrix ∧ (enterStage stage level s).ui = s.ui ∧
    (enterStage stage level s).filter = s.filter ∧ (enterStage stage level s).shape = s.shape ∧
    (enterStage stage level s).alloc = s.alloc ∧ (enterStage stage level s).clock = s.clock ∧
    (enterStage stage level s).ext = s.ext ∧ (enterStage stage level s).seq = s.seq ∧
    (enterStage stage level s).arp = s.arp ∧ (enterStage stage level s).outbox = s.outbox ∧
    (enterStage stage level s).status = s.status ∧ (enterStage stage level s).mem = s.mem ∧
    (enterStage stage level s).ports = s.ports ∧ (enterStage stage level s).params = s.params ∧
    (enterStage stage level s).inputs = s.inputs := by
  refine ⟨rfl, rfl, rfl, rfl, rfl, rfl, rfl, rfl, rfl, rfl, rfl, rfl, rfl, rfl, rfl, rfl, rfl, rfl, rfl, rfl, rfl, rfl, rfl, rfl, rfl⟩

@[simp] theorem rampTo_frame (a b : Int) (dur : Nat) (s : State) :
    (rampTo a b dur s).osc = s.osc ∧ (rampTo a b dur s).voices = s.voices ∧
    (rampTo a b dur s).engines = s.engines ∧ (rampTo a b dur s).pw = s.pw ∧ (rampTo a b dur s).mixer = s.mixer ∧
    (rampTo a b dur s).envMod = s.envMod ∧ (rampTo a b dur s).lfo = s.lfo ∧ (rampTo a b dur s).lfoMod = s.lfoMod ∧
    (rampTo a b dur s).qVel = s.qVel ∧ (rampTo a b dur s).vel = s.vel ∧ (rampTo a b dur s).matrix = s.matrix ∧
    (rampTo a b dur s).ui = s.ui ∧ (rampTo a b dur s).filter = s.filter ∧ (rampTo a b dur s).shape = s.shape ∧
    (rampTo a b dur s).alloc = s.alloc ∧ (rampTo a b dur s).clock = s.clock ∧ (rampTo a b dur s).ext = s.ext ∧
    (rampTo a b dur s).seq = s.seq ∧ (rampTo a b dur s).arp = s.arp ∧ (rampTo a b dur s).outbox = s.outbox ∧
    (rampTo a b dur s).status = s.status ∧ (rampTo a b dur s).mem = s.mem ∧ (rampTo a b dur s).ports = s.ports ∧
    (rampTo a b dur s).params = s.params ∧ (rampTo a b dur s).inputs = s.inputs := by
  refine ⟨rfl, rfl, rfl, rfl, rfl, rfl, rfl, rfl, rfl, rfl, rfl, rfl, rfl, rfl, rfl, rfl, rfl, rfl, rfl, rfl, rfl, rfl, rfl, rfl, rfl⟩

@[simp] theorem envTickStep_frame (s : State) :
    (envTickStep s).engines = s.engines ∧ (envTickStep s).mixer = s.mixer ∧ (envTickStep s).lfoMod = s.lfoMod ∧
    (envTickStep s).qVel = s.qVel ∧ (envTickStep s).matrix = s.matrix ∧ (envTickStep s).ui = s.ui ∧
    (envTickStep s).shape = s.shape ∧ (envTickStep s).clock = s.clock ∧ (envTickStep s).ext = s.ext ∧
    (envTickStep s).seq = s.seq ∧ (envTickStep s).arp = s.arp ∧ (envTickStep s).outbox = s.outbox ∧
    (envTickStep s).status = s.status ∧ (envTickStep s).mem = s.mem ∧ (envTickStep s).ports = s.ports ∧
    (envTickStep s).params = s.params ∧ (envTickStep s).inputs = s.inputs := by
  simp only [envTickStep]
  repeat' split
  all_goals simp

@[simp] theorem lfoOctaves_frame (s : State) :
    (lfoOctaves s).engines = s.engines ∧ (lfoOctaves s).pw = s.pw ∧ (lfoOctaves s).mixer = s.mixer ∧
    (lfoOctaves s).env = s.env ∧ (lfoOctaves s).envMod = s.envMod ∧ (lfoOctaves s).lfo = s.lfo ∧
    (lfoOctaves s).qVel = s.qVel ∧ (lfoOctaves s).vel = s.vel ∧ (lfoOctaves s).matrix = s.matrix ∧
    (lfoOctaves s).ui = s.ui ∧ (lfoOctaves s).filter = s.filter ∧ (lfoOctaves s).shape = s.shape ∧
    (lfoOctaves s).alloc = s.alloc ∧ (lfoOctaves s).clock = s.clock ∧ (lfoOctaves s).ext = s.ext ∧
    (lfoOctaves s).seq = s.seq ∧ (lfoOctaves s).arp = s.arp ∧ (lfoOctaves s).outbox = s.outbox ∧
    (lfoOctaves s).status = s.status ∧ (lfoOctaves s).mem = s.mem ∧ (lfoOctaves s).ports = s.ports ∧
    (lfoOctaves s).params = s.params ∧ (lfoOctaves s).inputs = s.inputs := by
  unfold lfoOctaves; split <;> simp

@[simp] theorem lfoOutputs_frame (s : State) :
    (lfoOutputs s).engines = s.engines ∧ (lfoOutputs s).mixer = s.mixer ∧ (lfoOutputs s).env = s.env ∧
    (lfoOutputs s).envMod = s.envMod ∧ (lfoOutputs s).lfo = s.lfo ∧ (lfoOutputs s).qVel = s.qVel ∧
    (lfoOutputs s).vel = s.vel ∧ (lfoOutputs s).matrix = s.matrix ∧ (lfoOutputs s).ui = s.ui ∧
    (lfoOutputs s).shape = s.shape ∧ (lfoOutputs s).alloc = s.alloc ∧ (lfoOutputs s).clock = s.clock ∧
    (lfoOutputs s).ext = s.ext ∧ (lfoOutputs s).seq = s.seq ∧ (lfoOutputs s).arp = s.arp ∧
    (lfoOutputs s).outbox = s.outbox ∧ (lfoOutputs s).status = s.status ∧ (lfoOutputs s).mem = s.mem ∧
    (lfoOutputs s).ports = s.ports ∧ (lfoOutputs s).params = s.params ∧ (lfoOutputs s).inputs = s.inputs := by
  simp [lfoOutputs]

@[simp] theorem lfoResync_frame (s : State) :
    (lfoResync s).osc = s.osc ∧ (lfoResync s).voices = s.voices ∧ (lfoResync s).engines = s.engines ∧
    (lfoResync s).pw = s.pw ∧ (lfoResync s).mixer = s.mixer ∧ (lfoResync s).env = s.env ∧
    (lfoResync s).envMod = s.envMod ∧ (lfoResync s).lfoMod = s.lfoMod ∧ (lfoResync s).qVel = s.qVel ∧
    (lfoResync s).vel = s.vel ∧ (lfoResync s).matrix = s.matrix ∧ (lfoResync s).ui = s.ui ∧
    (lfoResync s).filter = s.filter ∧ (lfoResync s).shape = s.shape ∧ (lfoResync s).alloc = s.alloc ∧
    (lfoResync s).clock = s.clock ∧ (lfoResync s).ext = s.ext ∧ (lfoResync s).seq = s.seq ∧
    (lfoResync s).arp = s.arp ∧ (lfoResync s).outbox = s.outbox ∧ (lfoResync s).status = s.status ∧
    (lfoResync s).mem = s.mem ∧ (lfoResync s).ports = s.ports ∧ (lfoResync s).params = s.params ∧
    (lfoResync s).inputs = s.inputs := by
  refine ⟨rfl, rfl, rfl, rfl, rfl, rfl, rfl, rfl, rfl, rfl, rfl, rfl, rfl, rfl, rfl, rfl, rfl, rfl, rfl, rfl, rfl, rfl, rfl, rfl, rfl⟩

@[simp] theorem clockLfoSync_frame (s : State) :
    (clockLfoSync s).osc = s.osc ∧ (clockLfoSync s).voices = s.voices ∧ (clockLfoSync s).engines = s.engines ∧
    (clockLfoSync s).pw = s.pw ∧ (clockLfoSync s).mixer = s.mixer ∧ (clockLfoSync s).env = s.env ∧
    (clockLfoSync s).envMod = s.envMod ∧ (clockLfoSync s).lfoMod = s.lfoMod ∧ (clockLfoSync s).qVel = s.qVel ∧
    (clockLfoSync s).vel = s.vel ∧ (clockLfoSync s).matrix = s.matrix ∧ (clockLfoSync s).ui = s.ui ∧
    (clockLfoSync s).filter = s.filter ∧ (clockLfoSync s).shape = s.shape ∧ (clockLfoSync s).alloc = s.alloc ∧
    (clockLfoSync s).clock = s.clock ∧ (clockLfoSync s).ext = s.ext ∧ (clockLfoSync s).seq = s.seq ∧
    (clockLfoSync s).arp = s.arp ∧ (clockLfoSync s).outbox = s.outbox ∧ (clockLfoSync s).status = s.status ∧
    (clockLfoSync s).mem = s.mem ∧ (clockLfoSync s).ports = s.ports ∧ (clockLfoSync s).params = s.params ∧
    (clockLfoSync s).inputs = s.inputs := by
  simp only [clockLfoSync]
  repeat' split
  all_goals simp

@[simp] theorem recomputeSwing_frame (s : State) :
    (recomputeSwing s).osc = s.osc ∧ (recomputeSwing s).voices = s.voices ∧
    (recomputeSwing s).engines = s.engines ∧ (recomputeSwing s).pw = s.pw ∧ (recomputeSwing s).mixer = s.mixer ∧
    (recomputeSwing s).env = s.env ∧ (recomputeSwing s).envMod = s.envMod ∧ (recomputeSwing s).lfo = s.lfo ∧
    (recomputeSwing s).lfoMod = s.lfoMod ∧ (recomputeSwing s).qVel = s.qVel ∧ (recomputeSwing s).vel = s.vel ∧
    (recomputeSwing s).matrix = s.matrix ∧ (recomputeSwing s).ui = s.ui ∧ (recomputeSwing s).filter = s.filter ∧
    (recomputeSwing s).shape = s.shape ∧ (recomputeSwing s).alloc = s.alloc ∧ (recomputeSwing s).ext = s.ext ∧
    (recomputeSwing s).seq = s.seq ∧ (recomputeSwing s).arp = s.arp ∧ (recomputeSwing s).outbox = s.outbox ∧
    (recomputeSwing s).status = s.status ∧ (recomputeSwing s).mem = s.mem ∧ (recomputeSwing s).ports = s.ports ∧
    (recomputeSwing s).params = s.params ∧ (recomputeSwing s).inputs = s.inputs := by
  refine ⟨rfl, rfl, rfl, rfl, rfl, rfl, rfl, rfl, rfl, rfl, rfl, rfl, rfl, rfl, rfl, rfl, rfl, rfl, rfl, rfl, rfl, rfl, rfl, rfl, rfl⟩

@[simp] theorem setTempo_frame (b : Nat) (s : State) :
    (setTempo b s).osc = s.osc ∧ (setTempo b s).voices = s.voices ∧ (setTempo b s).engines = s.engines ∧
    (setTempo b s).pw = s.pw ∧ (setTempo b s).mixer = s.mixer ∧ (setTempo b s).env = s.env ∧
    (setTempo b s).envMod = s.envMod ∧ (setTempo b s).lfo = s.lfo ∧ (setTempo b s).lfoMod = s.lfoMod ∧
    (setTempo b s).qVel = s.qVel ∧ (setTempo b s).vel = s.vel ∧ (setTempo b s).matrix = s.matrix ∧
    (setTempo b s).ui = s.ui ∧ (setTempo b s).filter = s.filter ∧ (setTempo b s).shape = s.shape ∧
    (setTempo b s).alloc = s.alloc ∧ (setTempo b s).ext = s.ext ∧ (setTempo b s).seq = s.seq ∧
    (setTempo b s).arp = s.arp ∧ (setTempo b s).outbox = s.outbox ∧ (setTempo b s).status = s.status ∧
    (setTempo b s).mem = s.mem ∧ (setTempo b s).ports = s.ports ∧ (setTempo b s).params = s.params ∧
    (setTempo b s).inputs = s.inputs := by
  refine ⟨rfl, rfl, rfl, rfl, rfl, rfl, rfl, rfl, rfl, rfl, rfl, rfl, rfl, rfl, rfl, rfl, rfl, rfl, rfl, rfl, rfl, rfl, rfl, rfl, rfl⟩

@[simp] theorem setDiv_frame (sel : Nat) (s : State) :
    (setDiv sel s).osc = s.osc ∧ (setDiv sel s).voices = s.voices ∧ (setDiv sel s).engines = s.engines ∧
    (setDiv sel s).pw = s.pw ∧ (setDiv sel s).mixer = s.mixer ∧ (setDiv sel s).env = s.env ∧
    (setDiv sel s).envMod = s.envMod ∧ (setDiv sel s).lfo = s.lfo ∧ (setDiv sel s).lfoMod = s.lfoMod ∧
    (setDiv sel s).qVel = s.qVel ∧ (setDiv sel s).vel = s.vel ∧ (setDiv sel s).matrix = s.matrix ∧
    (setDiv sel s).ui = s.ui ∧ (setDiv sel s).filter = s.filter ∧ (setDiv sel s).shape = s.shape ∧
    (setDiv sel s).alloc = s.alloc ∧ (setDiv sel s).ext = s.ext ∧ (setDiv sel s).outbox = s.outbox ∧
    (setDiv sel s).status = s.status ∧ (setDiv sel s).mem = s.mem ∧ (setDiv sel s).ports = s.ports ∧
    (setDiv sel s).params = s.params ∧ (setDiv sel s).inputs = s.inputs := by
  simp [setDiv]

@[simp] theorem extLost_frame (s : State) :
    (extLost s).osc = s.osc ∧ (extLost s).voices = s.voices ∧ (extLost s).engines = s.engines ∧
    (extLost s).pw = s.pw ∧ (extLost s).mixer = s.mixer ∧ (extLost s).env = s.env ∧ (extLost s).envMod = s.envMod ∧
    (extLost s).lfo = s.lfo ∧ (extLost s).lfoMod = s.lfoMod ∧ (extLost s).qVel = s.qVel ∧ (extLost s).vel = s.vel ∧
    (extLost s).matrix = s.matrix ∧ (extLost s).ui = s.ui ∧ (extLost s).filter = s.filter ∧
    (extLost s).shape = s.shape ∧ (extLost s).alloc = s.alloc ∧ (extLost s).seq = s.seq ∧ (extLost s).arp = s.arp ∧
    (extLost s).outbox = s.outbox ∧ (extLost s).status = s.status ∧ (extLost s).mem = s.mem ∧
    (extLost s).ports = s.ports ∧ (extLost s).params = s.params ∧ (extLost s).inputs = s.inputs := by
  refine ⟨rfl, rfl, rfl, rfl, rfl, rfl, rfl, rfl, rfl, rfl, rfl, rfl, rfl, rfl, rfl, rfl, rfl, rfl, rfl, rfl, rfl, rfl, rfl, rfl⟩

@[simp] theorem publishBpm_frame (s : State) :
    (publishBpm s).osc = s.osc ∧ (publishBpm s).voices = s.voices ∧ (publishBpm s).engines = s.engines ∧
    (publishBpm s).pw = s.pw ∧ (publishBpm s).mixer = s.mixer ∧ (publishBpm s).env = s.env ∧
    (publishBpm s).envMod = s.envMod ∧ (publishBpm s).lfo = s.lfo ∧ (publishBpm s).lfoMod = s.lfoMod ∧
    (publishBpm s).qVel = s.qVel ∧ (publishBpm s).vel = s.vel ∧ (publishBpm s).matrix = s.matrix ∧
    (publishBpm s).ui = s.ui ∧ (publishBpm s).filter = s.filter ∧ (publishBpm s).shape = s.shape ∧
    (publishBpm s).alloc = s.alloc ∧ (publishBpm s).ext = s.ext ∧ (publishBpm s).seq = s.seq ∧
    (publishBpm s).arp = s.arp ∧ (publishBpm s).outbox = s.outbox ∧ (publishBpm s).status = s.status ∧
    (publishBpm s).mem = s.mem ∧ (publishBpm s).ports = s.ports ∧ (publishBpm s).params = s.params ∧
    (publishBpm s).inputs = s.inputs := by
  unfold publishBpm; split <;> simp

@[simp] theorem bpmEstimate_frame (iv : Nat) (s : State) :
    (bpmEstimate iv s).osc = s.osc ∧ (bpmEstimate iv s).voices = s.voices ∧
    (bpmEstimate iv s).engines = s.engines ∧ (bpmEstimate iv s).pw = s.pw ∧ (bpmEstimate iv s).mixer = s.mixer ∧
    (bpmEstimate iv s).env = s.env ∧ (bpmEstimate iv s).envMod = s.envMod ∧ (bpmEstimate iv s).lfo = s.lfo ∧
    (bpmEstimate iv s).lfoMod = s.lfoMod ∧ (bpmEstimate iv s).qVel = s.qVel ∧ (bpmEstimate iv s).vel = s.vel ∧
    (bpmEstimate iv s).matrix = s.matrix ∧ (bpmEstimate iv s).ui = s.ui ∧ (bpmEstimate iv s).filter = s.filter ∧
    (bpmEstimate iv s).shape = s.shape ∧ (bpmEstimate iv s).alloc = s.alloc ∧ (bpmEstimate iv s).seq = s.seq ∧
    (bpmEstimate iv s).arp = s.arp ∧ (bpmEstimate iv s).outbox = s.outbox ∧ (bpmEstimate iv s).status = s.status ∧
    (bpmEstimate iv s).mem = s.mem ∧ (bpmEstimate iv s).ports = s.ports ∧ (bpmEstimate iv s).params = s.params ∧
    (bpmEstimate iv s).inputs = s.inputs := by
  unfold bpmEstimate; split <;> simp

@[simp] theorem setKey_frame (v : Fin 4) (x : Option Note) (s : State) :
    (setKey v x s).osc = s.osc ∧ (setKey v x s).engines = s.engines ∧ (setKey v x s).pw = s.pw ∧
    (setKey v x s).mixer = s.mixer ∧ (setKey v x s).env = s.env ∧ (setKey v x s).envMod = s.envMod ∧
    (setKey v x s).lfo = s.lfo ∧ (setKey v x s).lfoMod = s.lfoMod ∧ (setKey v x s).qVel = s.qVel ∧
    (setKey v x s).vel = s.vel ∧ (setKey v x s).matrix = s.matrix ∧ (setKey v x s).ui = s.ui ∧
    (setKey v x s).filter = s.filter ∧ (setKey v x s).shape = s.shape ∧ (setKey v x s).alloc = s.alloc ∧
    (setKey v x s).clock = s.clock ∧ (setKey v x s).ext = s.ext ∧ (setKey v x s).seq = s.seq ∧
    (setKey v x s).arp = s.arp ∧ (setKey v x s).outbox = s.outbox ∧ (setKey v x s).status = s.status ∧
    (setKey v x s).mem = s.mem ∧ (setKey v x s).ports = s.ports ∧ (setKey v x s).params = s.params ∧
    (setKey v x s).inputs = s.inputs := by
  refine ⟨rfl, rfl, rfl, rfl, rfl, rfl, rfl, rfl, rfl, rfl, rfl, rfl, rfl, rfl, rfl, rfl, rfl, rfl, rfl, rfl, rfl, rfl, rfl, rfl, rfl⟩

@[simp] theorem markMute_frame (v : Fin 4) (s : State) :
    (markMute v s).osc = s.osc ∧ (markMute v s).engines = s.engines ∧ (markMute v s).pw = s.pw ∧
    (markMute v s).mixer = s.mixer ∧ (markMute v s).env = s.env ∧ (markMute v s).envMod = s.envMod ∧
    (markMute v s).lfo = s.lfo ∧ (markMute v s).lfoMod = s.lfoMod ∧ (markMute v s).qVel = s.qVel ∧
    (markMute v s).vel = s.vel ∧ (markMute v s).matrix = s.matrix ∧ (markMute v s).ui = s.ui ∧
    (markMute v s).filter = s.filter ∧ (markMute v s).shape = s.shape ∧ (markMute v s).alloc = s.alloc ∧
    (markMute v s).clock = s.clock ∧ (markMute v s).ext = s.ext ∧ (markMute v s).seq = s.seq ∧
    (markMute v s).arp = s.arp ∧ (markMute v s).outbox = s.outbox ∧ (markMute v s).status = s.status ∧
    (markMute v s).mem = s.mem ∧ (markMute v s).ports = s.ports ∧ (markMute v s).params = s.params ∧
    (markMute v s).inputs = s.inputs := by
  refine ⟨rfl, rfl, rfl, rfl, rfl, rfl, rfl, rfl, rfl, rfl, rfl, rfl, rfl, rfl, rfl, rfl, rfl, rfl, rfl, rfl, rfl, rfl, rfl, rfl, rfl⟩

@[simp] theorem silence_frame (v : Fin 4) (s : State) :
    (silence v s).osc = s.osc ∧ (silence v s).engines = s.engines ∧ (silence v s).pw = s.pw ∧
    (silence v s).mixer = s.mixer ∧ (silence v s).env = s.env ∧ (silence v s).envMod = s.envMod ∧
    (silence v s).lfo = s.lfo ∧ (silence v s).lfoMod = s.lfoMod ∧ (silence v s).qVel = s.qVel ∧
    (silence v s).vel = s.vel ∧ (silence v s).matrix = s.matrix ∧ (silence v s).ui = s.ui ∧
    (silence v s).filter = s.filter ∧ (silence v s).shape = s.shape ∧ (silence v s).alloc = s.alloc ∧
    (silence v s).clock = s.clock ∧ (silence v s).ext = s.ext ∧ (silence v s).seq = s.seq ∧
    (silence v s).arp = s.arp ∧ (silence v s).outbox = s.outbox ∧ (silence v s).status = s.status ∧
    (silence v s).mem = s.mem ∧ (silence v s).ports = s.ports ∧ (silence v s).params = s.params ∧
    (silence v s).inputs = s.inputs := by
  refine ⟨rfl, rfl, rfl, rfl, rfl, rfl, rfl, rfl, rfl, rfl, rfl, rfl, rfl, rfl, rfl, rfl, rfl, rfl, rfl, rfl, rfl, rfl, rfl, rfl, rfl⟩

@[simp] theorem setNote_frame (v : Fin 4) (x : Option Note) (s : State) :
    (setNote v x s).engines = s.engines ∧ (setNote v x s).pw = s.pw ∧ (setNote v x s).mixer = s.mixer ∧
    (setNote v x s).env = s.env ∧ (setNote v x s).envMod = s.envMod ∧ (setNote v x s).lfo = s.lfo ∧
    (setNote v x s).lfoMod = s.lfoMod ∧ (setNote v x s).qVel = s.qVel ∧ (setNote v x s).vel = s.vel ∧
    (setNote v x s).matrix = s.matrix ∧ (setNote v x s).ui = s.ui ∧ (setNote v x s).filter = s.filter ∧
    (setNote v x s).shape = s.shape ∧ (setNote v x s).alloc = s.alloc ∧ (setNote v x s).clock = s.clock ∧
    (setNote v x s).ext = s.ext ∧ (setNote v x s).seq = s.seq ∧ (setNote v x s).arp = s.arp ∧
    (setNote v x s).outbox = s.outbox ∧ (setNote v x s).status = s.status ∧ (setNote v x s).mem = s.mem ∧
    (setNote v x s).ports = s.ports ∧ (setNote v x s).params = s.params ∧ (setNote v x s).inputs = s.inputs := by
  cases x <;> simp [setNote, State.setOsc, State.setVoice]

@[simp] theorem updateUnison_frame (s : State) :
    (updateUnison s).osc = s.osc ∧ (updateUnison s).voices = s.voices ∧ (updateUnison s).engines = s.engines ∧
    (updateUnison s).pw = s.pw ∧ (updateUnison s).mixer = s.mixer ∧ (updateUnison s).env = s.env ∧
    (updateUnison s).envMod = s.envMod ∧ (updateUnison s).lfo = s.lfo ∧ (updateUnison s).lfoMod = s.lfoMod ∧
    (updateUnison s).qVel = s.qVel ∧ (updateUnison s).vel = s.vel ∧ (updateUnison s).matrix = s.matrix ∧
    (updateUnison s).ui = s.ui ∧ (updateUnison s).filter = s.filter ∧ (updateUnison s).shape = s.shape ∧
    (updateUnison s).clock = s.clock ∧ (updateUnison s).ext = s.ext ∧ (updateUnison s).seq = s.seq ∧
    (updateUnison s).arp = s.arp ∧ (updateUnison s).outbox = s.outbox ∧ (updateUnison s).status = s.status ∧
    (updateUnison s).mem = s.mem ∧ (updateUnison s).ports = s.ports ∧ (updateUnison s).params = s.params ∧
    (updateUnison s).inputs = s.inputs := by
  refine ⟨rfl, rfl, rfl, rfl, rfl, rfl, rfl, rfl, rfl, rfl, rfl, rfl, rfl, rfl, rfl, rfl, rfl, rfl, rfl, rfl, rfl, rfl, rfl, rfl, rfl⟩

@[simp] theorem allocReleaseAll_frame (s : State) :
    (allocReleaseAll s).osc = s.osc ∧ (allocReleaseAll s).engines = s.engines ∧ (allocReleaseAll s).pw = s.pw ∧
    (allocReleaseAll s).mixer = s.mixer ∧ (allocReleaseAll s).envMod = s.envMod ∧ (allocReleaseAll s).lfo = s.lfo ∧
    (allocReleaseAll s).lfoMod = s.lfoMod ∧ (allocReleaseAll s).qVel = s.qVel ∧ (allocReleaseAll s).vel = s.vel ∧
    (allocReleaseAll s).matrix = s.matrix ∧ (allocReleaseAll s).ui = s.ui ∧ (allocReleaseAll s).filter = s.filter ∧
    (allocReleaseAll s).shape = s.shape ∧ (allocReleaseAll s).clock = s.clock ∧ (allocReleaseAll s).ext = s.ext ∧
    (allocReleaseAll s).seq = s.seq ∧ (allocReleaseAll s).arp = s.arp ∧ (allocReleaseAll s).outbox = s.outbox ∧
    (allocReleaseAll s).status = s.status ∧ (allocReleaseAll s).mem = s.mem ∧ (allocReleaseAll s).ports = s.ports ∧
    (allocReleaseAll s).params = s.params ∧ (allocReleaseAll s).inputs = s.inputs := by
  simp only [allocReleaseAll]
  repeat' split
  all_goals simp

@[simp] theorem seqRelease_frame (s : State) :
    (seqRelease s).osc = s.osc ∧ (seqRelease s).voices = s.voices ∧ (seqRelease s).engines = s.engines ∧
    (seqRelease s).pw = s.pw ∧ (seqRelease s).mixer = s.mixer ∧ (seqRelease s).envMod = s.envMod ∧
    (seqRelease s).lfo = s.lfo ∧ (seqRelease s).lfoMod = s.lfoMod ∧ (seqRelease s).qVel = s.qVel ∧
    (seqRelease s).vel = s.vel ∧ (seqRelease s).matrix = s.matrix ∧ (seqRelease s).ui = s.ui ∧
    (seqRelease s).filter = s.filter ∧ (seqRelease s).shape = s.shape ∧ (seqRelease s).alloc = s.alloc ∧
    (seqRelease s).clock = s.clock ∧ (seqRelease s).ext = s.ext ∧ (seqRelease s).arp = s.arp ∧
    (seqRelease s).status = s.status ∧ (seqRelease s).mem = s.mem ∧ (seqRelease s).ports = s.ports ∧
    (seqRelease s).params = s.params ∧ (seqRelease s).inputs = s.inputs := by
  simp only [seqRelease]
  repeat' split
  all_goals simp

@[simp] theorem seqReleasePending_frame (s : State) :
    (seqReleasePending s).osc = s.osc ∧ (seqReleasePending s).voices = s.voices ∧
    (seqReleasePending s).engines = s.engines ∧ (seqReleasePending s).pw = s.pw ∧
    (seqReleasePending s).mixer = s.mixer ∧ (seqReleasePending s).envMod = s.envMod ∧
    (seqReleasePending s).lfo = s.lfo ∧ (seqReleasePending s).lfoMod = s.lfoMod ∧
    (seqReleasePending s).qVel = s.qVel ∧ (seqReleasePending s).vel = s.vel ∧
    (seqReleasePending s).matrix = s.matrix ∧ (seqReleasePending s).ui = s.ui ∧
    (seqReleasePending s).filter = s.filter ∧ (seqReleasePending s).shape = s.shape ∧
    (seqReleasePending s).alloc = s.alloc ∧ (seqReleasePending s).clock = s.clock ∧
    (seqReleasePending s).ext = s.ext ∧ (seqReleasePending s).arp = s.arp ∧
    (seqReleasePending s).status = s.status ∧ (seqReleasePending s).mem = s.mem ∧
    (seqReleasePending s).ports = s.ports ∧ (seqReleasePending s).params = s.params ∧
    (seqReleasePending s).inputs = s.inputs := by
  unfold seqReleasePending; split <;> simp

@[simp] theorem applySeqTempo_frame (s : State) :
    (applySeqTempo s).osc = s.osc ∧ (applySeqTempo s).voices = s.voices ∧ (applySeqTempo s).engines = s.engines ∧
    (applySeqTempo s).pw = s.pw ∧ (applySeqTempo s).mixer = s.mixer ∧ (applySeqTempo s).env = s.env ∧
    (applySeqTempo s).envMod = s.envMod ∧ (applySeqTempo s).lfo = s.lfo ∧ (applySeqTempo s).lfoMod = s.lfoMod ∧
    (applySeqTempo s).qVel = s.qVel ∧ (applySeqTempo s).vel = s.vel ∧ (applySeqTempo s).matrix = s.matrix ∧
    (applySeqTempo s).ui = s.ui ∧ (applySeqTempo s).filter = s.filter ∧ (applySeqTempo s).shape = s.shape ∧
    (applySeqTempo s).alloc = s.alloc ∧ (applySeqTempo s).ext = s.ext ∧ (applySeqTempo s).outbox = s.outbox ∧
    (applySeqTempo s).status = s.status ∧ (applySeqTempo s).mem = s.mem ∧ (applySeqTempo s).ports = s.ports ∧
    (applySeqTempo s).params = s.params ∧ (applySeqTempo s).inputs = s.inputs := by
  simp only [applySeqTempo]
  repeat' split
  all_goals simp

@[simp] theorem startSeq_frame (s : State) :
    (startSeq s).osc = s.osc ∧ (startSeq s).voices = s.voices ∧ (startSeq s).engines = s.engines ∧
    (startSeq s).pw = s.pw ∧ (startSeq s).mixer = s.mixer ∧ (startSeq s).env = s.env ∧
    (startSeq s).envMod = s.envMod ∧ (startSeq s).lfo = s.lfo ∧ (startSeq s).lfoMod = s.lfoMod ∧
    (startSeq s).qVel = s.qVel ∧ (startSeq s).vel = s.vel ∧ (startSeq s).matrix = s.matrix ∧
    (startSeq s).ui = s.ui ∧ (startSeq s).filter = s.filter ∧ (startSeq s).shape = s.shape ∧
    (startSeq s).alloc = s.alloc ∧ (startSeq s).ext = s.ext ∧ (startSeq s).outbox = s.outbox ∧
    (startSeq s).status = s.status ∧ (startSeq s).mem = s.mem ∧ (startSeq s).ports = s.ports ∧
    (startSeq s).params = s.params ∧ (startSeq s).inputs = s.inputs := by
  simp [startSeq]

@[simp] theorem stopSeq_frame (s : State) :
    (stopSeq s).osc = s.osc ∧ (stopSeq s).voices = s.voices ∧ (stopSeq s).engines = s.engines ∧
    (stopSeq s).pw = s.pw ∧ (stopSeq s).mixer = s.mixer ∧ (stopSeq s).envMod = s.envMod ∧ (stopSeq s).lfo = s.lfo ∧
    (stopSeq s).lfoMod = s.lfoMod ∧ (stopSeq s).qVel = s.qVel ∧ (stopSeq s).vel = s.vel ∧
    (stopSeq s).matrix = s.matrix ∧ (stopSeq s).ui = s.ui ∧ (stopSeq s).filter = s.filter ∧
    (stopSeq s).shape = s.shape ∧ (stopSeq s).alloc = s.alloc ∧ (stopSeq s).clock = s.clock ∧
    (stopSeq s).ext = s.ext ∧ (stopSeq s).arp = s.arp ∧ (stopSeq s).status = s.status ∧ (stopSeq s).mem = s.mem ∧
    (stopSeq s).ports = s.ports ∧ (stopSeq s).params = s.params ∧ (stopSeq s).inputs = s.inputs := by
  simp [stopSeq]

@[simp] theorem cueNextSeq_frame (s : State) :
    (cueNextSeq s).osc = s.osc ∧ (cueNextSeq s).voices = s.voices ∧ (cueNextSeq s).engines = s.engines ∧
    (cueNextSeq s).pw = s.pw ∧ (cueNextSeq s).mixer = s.mixer ∧ (cueNextSeq s).env = s.env ∧
    (cueNextSeq s).envMod = s.envMod ∧ (cueNextSeq s).lfo = s.lfo ∧ (cueNextSeq s).lfoMod = s.lfoMod ∧
    (cueNextSeq s).qVel = s.qVel ∧ (cueNextSeq s).vel = s.vel ∧ (cueNextSeq s).matrix = s.matrix ∧
    (cueNextSeq s).ui = s.ui ∧ (cueNextSeq s).filter = s.filter ∧ (cueNextSeq s).shape = s.shape ∧
    (cueNextSeq s).alloc = s.alloc ∧ (cueNextSeq s).clock = s.clock ∧ (cueNextSeq s).ext = s.ext ∧
    (cueNextSeq s).arp = s.arp ∧ (cueNextSeq s).outbox = s.outbox ∧ (cueNextSeq s).status = s.status ∧
    (cueNextSeq s).mem = s.mem ∧ (cueNextSeq s).ports = s.ports ∧ (cueNextSeq s).params = s.params := by
  simp only [cueNextSeq, draw]
  repeat' split
  all_goals simp

@[simp] theorem switchIfCued_frame (s : State) :
    (switchIfCued s).osc = s.osc ∧ (switchIfCued s).voices = s.voices ∧ (switchIfCued s).engines = s.engines ∧
    (switchIfCued s).pw = s.pw ∧ (switchIfCued s).mixer = s.mixer ∧ (switchIfCued s).env = s.env ∧
    (switchIfCued s).envMod = s.envMod ∧ (switchIfCued s).lfo = s.lfo ∧ (switchIfCued s).lfoMod = s.lfoMod ∧
    (switchIfCued s).qVel = s.qVel ∧ (switchIfCued s).vel = s.vel ∧ (switchIfCued s).matrix = s.matrix ∧
    (switchIfCued s).ui = s.ui ∧ (switchIfCued s).filter = s.filter ∧ (switchIfCued s).shape = s.shape ∧
    (switchIfCued s).alloc = s.alloc ∧ (switchIfCued s).ext = s.ext ∧ (switchIfCued s).outbox = s.outbox ∧
    (switchIfCued s).status = s.status ∧ (switchIfCued s).mem = s.mem ∧ (switchIfCued s).ports = s.ports ∧
    (switchIfCued s).params = s.params := by
  unfold switchIfCued; split <;> simp

@[simp] theorem drawMagnitude_frame (len : Nat) (s : State) :
    (drawMagnitude len s).osc = s.osc ∧ (drawMagnitude len s).voices = s.voices ∧
    (drawMagnitude len s).engines = s.engines ∧ (drawMagnitude len s).pw = s.pw ∧
    (drawMagnitude len s).mixer = s.mixer ∧ (drawMagnitude len s).env = s.env ∧
    (drawMagnitude len s).envMod = s.envMod ∧ (drawMagnitude len s).lfo = s.lfo ∧
    (drawMagnitude len s).lfoMod = s.lfoMod ∧ (drawMagnitude len s).qVel = s.qVel ∧
    (drawMagnitude len s).vel = s.vel ∧ (drawMagnitude len s).matrix = s.matrix ∧ (drawMagnitude len s).ui = s.ui ∧
    (drawMagnitude len s).filter = s.filter ∧ (drawMagnitude len s).shape = s.shape ∧
    (drawMagnitude len s).alloc = s.alloc ∧ (drawMagnitude len s).clock = s.clock ∧
    (drawMagnitude len s).ext = s.ext ∧ (drawMagnitude len s).arp = s.arp ∧
    (drawMagnitude len s).outbox = s.outbox ∧ (drawMagnitude len s).status = s.status ∧
    (drawMagnitude len s).mem = s.mem ∧ (drawMagnitude len s).ports = s.ports ∧
    (drawMagnitude len s).params = s.params := by
  simp [drawMagnitude, draw]

@[simp] theorem scheduleSeqRelease_frame (s : State) :
    (scheduleSeqRelease s).osc = s.osc ∧ (scheduleSeqRelease s).voices = s.voices ∧
    (scheduleSeqRelease s).engines = s.engines ∧ (scheduleSeqRelease s).pw = s.pw ∧
    (scheduleSeqRelease s).mixer = s.mixer ∧ (scheduleSeqRelease s).env = s.env ∧
    (scheduleSeqRelease s).envMod = s.envMod ∧ (scheduleSeqRelease s).lfo = s.lfo ∧
    (scheduleSeqRelease s).lfoMod = s.lfoMod ∧ (scheduleSeqRelease s).qVel = s.qVel ∧
    (scheduleSeqRelease s).vel = s.vel ∧ (scheduleSeqRelease s).matrix = s.matrix ∧
    (scheduleSeqRelease s).ui = s.ui ∧ (scheduleSeqRelease s).filter = s.filter ∧
    (scheduleSeqRelease s).shape = s.shape ∧ (scheduleSeqRelease s).alloc = s.alloc ∧
    (scheduleSeqRelease s).clock = s.clock ∧ (scheduleSeqRelease s).ext = s.ext ∧
    (scheduleSeqRelease s).arp = s.arp ∧ (scheduleSeqRelease s).outbox = s.outbox ∧
    (scheduleSeqRelease s).status = s.status ∧ (scheduleSeqRelease s).mem = s.mem ∧
    (scheduleSeqRelease s).ports = s.ports ∧ (scheduleSeqRelease s).params = s.params ∧
    (scheduleSeqRelease s).inputs = s.inputs := by
  refine ⟨rfl, rfl, rfl, rfl, rfl, rfl, rfl, rfl, rfl, rfl, rfl, rfl, rfl, rfl, rfl, rfl, rfl, rfl, rfl, rfl, rfl, rfl, rfl, rfl, rfl⟩

@[simp] theorem playVoice_frame (S : Sequence) (t : Fin 16) (v : Fin 4) (s : State) :
    (playVoice S t v s).engines = s.engines ∧ (playVoice S t v s).pw = s.pw ∧ (playVoice S t v s).mixer = s.mixer ∧
    (playVoice S t v s).env = s.env ∧ (playVoice S t v s).envMod = s.envMod ∧ (playVoice S t v s).lfo = s.lfo ∧
    (playVoice S t v s).lfoMod = s.lfoMod ∧ (playVoice S t v s).qVel = s.qVel ∧ (playVoice S t v s).vel = s.vel ∧
    (playVoice S t v s).matrix = s.matrix ∧ (playVoice S t v s).ui = s.ui ∧ (playVoice S t v s).filter = s.filter ∧
    (playVoice S t v s).shape = s.shape ∧ (playVoice S t v s).alloc = s.alloc ∧
    (playVoice S t v s).clock = s.clock ∧ (playVoice S t v s).ext = s.ext ∧ (playVoice S t v s).seq = s.seq ∧
    (playVoice S t v s).arp = s.arp ∧ (playVoice S t v s).status = s.status ∧ (playVoice S t v s).mem = s.mem ∧
    (playVoice S t v s).ports = s.ports ∧ (playVoice S t v s).params = s.params ∧
    (playVoice S t v s).inputs = s.inputs := by
  simp only [playVoice]
  repeat' split
  all_goals simp

@[simp] theorem stepPlay_frame (t nxt : Fin 16) (s : State) :
    (stepPlay t nxt s).engines = s.engines ∧ (stepPlay t nxt s).mixer = s.mixer ∧
    (stepPlay t nxt s).lfoMod = s.lfoMod ∧ (stepPlay t nxt s).matrix = s.matrix ∧ (stepPlay t nxt s).ui = s.ui ∧
    (stepPlay t nxt s).shape = s.shape ∧ (stepPlay t nxt s).alloc = s.alloc ∧ (stepPlay t nxt s).clock = s.clock ∧
    (stepPlay t nxt s).ext = s.ext ∧ (stepPlay t nxt s).arp = s.arp ∧ (stepPlay t nxt s).status = s.status ∧
    (stepPlay t nxt s).mem = s.mem ∧ (stepPlay t nxt s).ports = s.ports ∧ (stepPlay t nxt s).params = s.params ∧
    (stepPlay t nxt s).inputs = s.inputs := by
  simp only [stepPlay, forVoices]
  repeat' split
  all_goals simp

@[simp] theorem stepTied_frame (nxt : Fin 16) (s : State) :
    (stepTied nxt s).osc = s.osc ∧ (stepTied nxt s).voices = s.voices ∧ (stepTied nxt s).engines = s.engines ∧
    (stepTied nxt s).pw = s.pw ∧ (stepTied nxt s).mixer = s.mixer ∧ (stepTied nxt s).env = s.env ∧
    (stepTied nxt s).envMod = s.envMod ∧ (stepTied nxt s).lfo = s.lfo ∧ (stepTied nxt s).lfoMod = s.lfoMod ∧
    (stepTied nxt s).qVel = s.qVel ∧ (stepTied nxt s).vel = s.vel ∧ (stepTied nxt s).matrix = s.matrix ∧
    (stepTied nxt s).ui = s.ui ∧ (stepTied nxt s).filter = s.filter ∧ (stepTied nxt s).shape = s.shape ∧
    (stepTied nxt s).alloc = s.alloc ∧ (stepTied nxt s).clock = s.clock ∧ (stepTied nxt s).ext = s.ext ∧
    (stepTied nxt s).arp = s.arp ∧ (stepTied nxt s).outbox = s.outbox ∧ (stepTied nxt s).status = s.status ∧
    (stepTied nxt s).mem = s.mem ∧ (stepTied nxt s).ports = s.ports ∧ (stepTied nxt s).params = s.params ∧
    (stepTied nxt s).inputs = s.inputs := by
  unfold stepTied; split <;> simp

@[simp] theorem stepMuted_frame (s : State) :
    (stepMuted s).osc = s.osc ∧ (stepMuted s).voices = s.voices ∧ (stepMuted s).engines = s.engines ∧
    (stepMuted s).pw = s.pw ∧ (stepMuted s).mixer = s.mixer ∧ (stepMuted s).env = s.env ∧
    (stepMuted s).envMod = s.envMod ∧ (stepMuted s).lfo = s.lfo ∧ (stepMuted s).lfoMod = s.lfoMod ∧
    (stepMuted s).qVel = s.qVel ∧ (stepMuted s).vel = s.vel ∧ (stepMuted s).matrix = s.matrix ∧
    (stepMuted s).ui = s.ui ∧ (stepMuted s).filter = s.filter ∧ (stepMuted s).shape = s.shape ∧
    (stepMuted s).alloc = s.alloc ∧ (stepMuted s).clock = s.clock ∧ (stepMuted s).ext = s.ext ∧
    (stepMuted s).arp = s.arp ∧ (stepMuted s).outbox = s.outbox ∧ (stepMuted s).status = s.status ∧
    (stepMuted s).mem = s.mem ∧ (stepMuted s).ports = s.ports ∧ (stepMuted s).params = s.params ∧
    (stepMuted s).inputs = s.inputs := by
  refine ⟨rfl, rfl, rfl, rfl, rfl, rfl, rfl, rfl, rfl, rfl, rfl, rfl, rfl, rfl, rfl, rfl, rfl, rfl, rfl, rfl, rfl, rfl, rfl, rfl, rfl⟩

@[simp] theorem playStep_frame (t nxt : Fin 16) (s : State) :
    (playStep t nxt s).engines = s.engines ∧ (playStep t nxt s).mixer = s.mixer ∧
    (playStep t nxt s).lfoMod = s.lfoMod ∧ (playStep t nxt s).matrix = s.matrix ∧ (playStep t nxt s).ui = s.ui ∧
    (playStep t nxt s).shape = s.shape ∧ (playStep t nxt s).alloc = s.alloc ∧ (playStep t nxt s).clock = s.clock ∧
    (playStep t nxt s).ext = s.ext ∧ (playStep t nxt s).arp = s.arp ∧ (playStep t nxt s).status = s.status ∧
    (playStep t nxt s).mem = s.mem ∧ (playStep t nxt s).ports = s.ports ∧ (playStep t nxt s).params = s.params ∧
    (playStep t nxt s).inputs = s.inputs := by
  simp only [playStep]
  repeat' split
  all_goals simp

@[simp] theorem swingAtZero_frame (s : State) :
    (swingAtZero s).osc = s.osc ∧ (swingAtZero s).voices = s.voices ∧ (swingAtZero s).engines = s.engines ∧
    (swingAtZero s).pw = s.pw ∧ (swingAtZero s).mixer = s.mixer ∧ (swingAtZero s).env = s.env ∧
    (swingAtZero s).envMod = s.envMod ∧ (swingAtZero s).lfo = s.lfo ∧ (swingAtZero s).lfoMod = s.lfoMod ∧
    (swingAtZero s).qVel = s.qVel ∧ (swingAtZero s).vel = s.vel ∧ (swingAtZero s).matrix = s.matrix ∧
    (swingAtZero s).ui = s.ui ∧ (swingAtZero s).filter = s.filter ∧ (swingAtZero s).shape = s.shape ∧
    (swingAtZero s).alloc = s.alloc ∧ (swingAtZero s).ext = s.ext ∧ (swingAtZero s).seq = s.seq ∧
    (swingAtZero s).arp = s.arp ∧ (swingAtZero s).outbox = s.outbox ∧ (swingAtZero s).status = s.status ∧
    (swingAtZero s).mem = s.mem ∧ (swingAtZero s).ports = s.ports ∧ (swingAtZero s).params = s.params ∧
    (swingAtZero s).inputs = s.inputs := by
  unfold swingAtZero; split <;> simp

@[simp] theorem reduceStep_frame (q : Fin 8) (s : State) :
    (reduceStep q s).osc = s.osc ∧ (reduceStep q s).voices = s.voices ∧ (reduceStep q s).engines = s.engines ∧
    (reduceStep q s).pw = s.pw ∧ (reduceStep q s).mixer = s.mixer ∧ (reduceStep q s).env = s.env ∧
    (reduceStep q s).envMod = s.envMod ∧ (reduceStep q s).lfo = s.lfo ∧ (reduceStep q s).lfoMod = s.lfoMod ∧
    (reduceStep q s).qVel = s.qVel ∧ (reduceStep q s).vel = s.vel ∧ (reduceStep q s).matrix = s.matrix ∧
    (reduceStep q s).ui = s.ui ∧ (reduceStep q s).filter = s.filter ∧ (reduceStep q s).shape = s.shape ∧
    (reduceStep q s).alloc = s.alloc ∧ (reduceStep q s).clock = s.clock ∧ (reduceStep q s).ext = s.ext ∧
    (reduceStep q s).arp = s.arp ∧ (reduceStep q s).outbox = s.outbox ∧ (reduceStep q s).status = s.status ∧
    (reduceStep q s).mem = s.mem ∧ (reduceStep q s).ports = s.ports ∧ (reduceStep q s).params = s.params ∧
    (reduceStep q s).inputs = s.inputs := by
  unfold reduceStep; split <;> simp

@[simp] theorem seqCapture_frame (s : State) :
    (seqCapture s).osc = s.osc ∧ (seqCapture s).voices = s.voices ∧ (seqCapture s).engines = s.engines ∧
    (seqCapture s).pw = s.pw ∧ (seqCapture s).mixer = s.mixer ∧ (seqCapture s).env = s.env ∧
    (seqCapture s).envMod = s.envMod ∧ (seqCapture s).lfo = s.lfo ∧ (seqCapture s).lfoMod = s.lfoMod ∧
    (seqCapture s).qVel = s.qVel ∧ (seqCapture s).vel = s.vel ∧ (seqCapture s).matrix = s.matrix ∧
    (seqCapture s).ui = s.ui ∧ (seqCapture s).filter = s.filter ∧ (seqCapture s).shape = s.shape ∧
    (seqCapture s).alloc = s.alloc ∧ (seqCapture s).clock = s.clock ∧ (seqCapture s).ext = s.ext ∧
    (seqCapture s).seq = s.seq ∧ (seqCapture s).arp = s.arp ∧ (seqCapture s).outbox = s.outbox ∧
    (seqCapture s).status = s.status ∧ (seqCapture s).ports = s.ports ∧ (seqCapture s).params = s.params ∧
    (seqCapture s).inputs = s.inputs := by
  refine ⟨rfl, rfl, rfl, rfl, rfl, rfl, rfl, rfl, rfl, rfl, rfl, rfl, rfl, rfl, rfl, rfl, rfl, rfl, rfl, rfl, rfl, rfl, rfl, rfl, rfl⟩

@[simp] theorem arpClear_frame (s : State) :
    (arpClear s).osc = s.osc ∧ (arpClear s).voices = s.voices ∧ (arpClear s).engines = s.engines ∧
    (arpClear s).pw = s.pw ∧ (arpClear s).mixer = s.mixer ∧ (arpClear s).env = s.env ∧
    (arpClear s).envMod = s.envMod ∧ (arpClear s).lfo = s.lfo ∧ (arpClear s).lfoMod = s.lfoMod ∧
    (arpClear s).qVel = s.qVel ∧ (arpClear s).vel = s.vel ∧ (arpClear s).matrix = s.matrix ∧
    (arpClear s).ui = s.ui ∧ (arpClear s).filter = s.filter ∧ (arpClear s).shape = s.shape ∧
    (arpClear s).alloc = s.alloc ∧ (arpClear s).clock = s.clock ∧ (arpClear s).ext = s.ext ∧
    (arpClear s).seq = s.seq ∧ (arpClear s).outbox = s.outbox ∧ (arpClear s).status = s.status ∧
    (arpClear s).mem = s.mem ∧ (arpClear s).ports = s.ports ∧ (arpClear s).params = s.params ∧
    (arpClear s).inputs = s.inputs := by
  refine ⟨rfl, rfl, rfl, rfl, rfl, rfl, rfl, rfl, rfl, rfl, rfl, rfl, rfl, rfl, rfl, rfl, rfl, rfl, rfl, rfl, rfl, rfl, rfl, rfl, rfl⟩

@[simp] theorem arpSort_frame (s : State) :
    (arpSort s).osc = s.osc ∧ (arpSort s).voices = s.voices ∧ (arpSort s).engines = s.engines ∧
    (arpSort s).pw = s.pw ∧ (arpSort s).mixer = s.mixer ∧ (arpSort s).env = s.env ∧ (arpSort s).envMod = s.envMod ∧
    (arpSort s).lfo = s.lfo ∧ (arpSort s).lfoMod = s.lfoMod ∧ (arpSort s).qVel = s.qVel ∧ (arpSort s).vel = s.vel ∧
    (arpSort s).matrix = s.matrix ∧ (arpSort s).ui = s.ui ∧ (arpSort s).filter = s.filter ∧
    (arpSort s).shape = s.shape ∧ (arpSort s).alloc = s.alloc ∧ (arpSort s).clock = s.clock ∧
    (arpSort s).ext = s.ext ∧ (arpSort s).seq = s.seq ∧ (arpSort s).outbox = s.outbox ∧
    (arpSort s).status = s.status ∧ (arpSort s).mem = s.mem ∧ (arpSort s).ports = s.ports ∧
    (arpSort s).params = s.params ∧ (arpSort s).inputs = s.inputs := by
  refine ⟨rfl, rfl, rfl, rfl, rfl, rfl, rfl, rfl, rfl, rfl, rfl, rfl, rfl, rfl, rfl, rfl, rfl, rfl, rfl, rfl, rfl, rfl, rfl, rfl, rfl⟩

@[simp] theorem arpRelist_frame (raw : List Note) (s : State) :
    (arpRelist raw s).osc = s.osc ∧ (arpRelist raw s).voices = s.voices ∧ (arpRelist raw s).engines = s.engines ∧
    (arpRelist raw s).pw = s.pw ∧ (arpRelist raw s).mixer = s.mixer ∧ (arpRelist raw s).env = s.env ∧
    (arpRelist raw s).envMod = s.envMod ∧ (arpRelist raw s).lfo = s.lfo ∧ (arpRelist raw s).lfoMod = s.lfoMod ∧
    (arpRelist raw s).qVel = s.qVel ∧ (arpRelist raw s).vel = s.vel ∧ (arpRelist raw s).matrix = s.matrix ∧
    (arpRelist raw s).ui = s.ui ∧ (arpRelist raw s).filter = s.filter ∧ (arpRelist raw s).shape = s.shape ∧
    (arpRelist raw s).alloc = s.alloc ∧ (arpRelist raw s).clock = s.clock ∧ (arpRelist raw s).ext = s.ext ∧
    (arpRelist raw s).seq = s.seq ∧ (arpRelist raw s).outbox = s.outbox ∧ (arpRelist raw s).status = s.status ∧
    (arpRelist raw s).mem = s.mem ∧ (arpRelist raw s).ports = s.ports ∧ (arpRelist raw s).params = s.params ∧
    (arpRelist raw s).inputs = s.inputs := by
  simp [arpRelist]

@[simp] theorem arpNoteOn_frame (k : Note) (vel : Int) (s : State) :
    (arpNoteOn k vel s).osc = s.osc ∧ (arpNoteOn k vel s).voices = s.voices ∧
    (arpNoteOn k vel s).engines = s.engines ∧ (arpNoteOn k vel s).pw = s.pw ∧ (arpNoteOn k vel s).mixer = s.mixer ∧
    (arpNoteOn k vel s).env = s.env ∧ (arpNoteOn k vel s).envMod = s.envMod ∧ (arpNoteOn k vel s).lfo = s.lfo ∧
    (arpNoteOn k vel s).lfoMod = s.lfoMod ∧ (arpNoteOn k vel s).qVel = s.qVel ∧ (arpNoteOn k vel s).vel = s.vel ∧
    (arpNoteOn k vel s).matrix = s.matrix ∧ (arpNoteOn k vel s).ui = s.ui ∧ (arpNoteOn k vel s).filter = s.filter ∧
    (arpNoteOn k vel s).shape = s.shape ∧ (arpNoteOn k vel s).alloc = s.alloc ∧
    (arpNoteOn k vel s).clock = s.clock ∧ (arpNoteOn k vel s).ext = s.ext ∧ (arpNoteOn k vel s).seq = s.seq ∧
    (arpNoteOn k vel s).outbox = s.outbox ∧ (arpNoteOn k vel s).status = s.status ∧
    (arpNoteOn k vel s).mem = s.mem ∧ (arpNoteOn k vel s).ports = s.ports ∧ (arpNoteOn k vel s).params = s.params ∧
    (arpNoteOn k vel s).inputs = s.inputs := by
  simp only [arpNoteOn]
  repeat' split
  all_goals simp

@[simp] theorem arpNoteOff_frame (k : Note) (s : State) :
    (arpNoteOff k s).osc = s.osc ∧ (arpNoteOff k s).voices = s.voices ∧ (arpNoteOff k s).engines = s.engines ∧
    (arpNoteOff k s).pw = s.pw ∧ (arpNoteOff k s).mixer = s.mixer ∧ (arpNoteOff k s).env = s.env ∧
    (arpNoteOff k s).envMod = s.envMod ∧ (arpNoteOff k s).lfo = s.lfo ∧ (arpNoteOff k s).lfoMod = s.lfoMod ∧
    (arpNoteOff k s).qVel = s.qVel ∧ (arpNoteOff k s).vel = s.vel ∧ (arpNoteOff k s).matrix = s.matrix ∧
    (arpNoteOff k s).ui = s.ui ∧ (arpNoteOff k s).filter = s.filter ∧ (arpNoteOff k s).shape = s.shape ∧
    (arpNoteOff k s).alloc = s.alloc ∧ (arpNoteOff k s).clock = s.clock ∧ (arpNoteOff k s).ext = s.ext ∧
    (arpNoteOff k s).seq = s.seq ∧ (arpNoteOff k s).outbox = s.outbox ∧ (arpNoteOff k s).status = s.status ∧
    (arpNoteOff k s).mem = s.mem ∧ (arpNoteOff k s).ports = s.ports ∧ (arpNoteOff k s).params = s.params ∧
    (arpNoteOff k s).inputs = s.inputs := by
  unfold arpNoteOff; split <;> simp

@[simp] theorem arpRelease_frame (s : State) :
    (arpRelease s).osc = s.osc ∧ (arpRelease s).voices = s.voices ∧ (arpRelease s).engines = s.engines ∧
    (arpRelease s).pw = s.pw ∧ (arpRelease s).mixer = s.mixer ∧ (arpRelease s).envMod = s.envMod ∧
    (arpRelease s).lfo = s.lfo ∧ (arpRelease s).lfoMod = s.lfoMod ∧ (arpRelease s).qVel = s.qVel ∧
    (arpRelease s).vel = s.vel ∧ (arpRelease s).matrix = s.matrix ∧ (arpRelease s).ui = s.ui ∧
    (arpRelease s).filter = s.filter ∧ (arpRelease s).shape = s.shape ∧ (arpRelease s).alloc = s.alloc ∧
    (arpRelease s).clock = s.clock ∧ (arpRelease s).ext = s.ext ∧ (arpRelease s).seq = s.seq ∧
    (arpRelease s).status = s.status ∧ (arpRelease s).mem = s.mem ∧ (arpRelease s).ports = s.ports ∧
    (arpRelease s).params = s.params ∧ (arpRelease s).inputs = s.inputs := by
  simp only [arpRelease]
  repeat' split
  all_goals simp

@[simp] theorem arpReleasePending_frame (s : State) :
    (arpReleasePending s).osc = s.osc ∧ (arpReleasePending s).voices = s.voices ∧
    (arpReleasePending s).engines = s.engines ∧ (arpReleasePending s).pw = s.pw ∧
    (arpReleasePending s).mixer = s.mixer ∧ (arpReleasePending s).envMod = s.envMod ∧
    (arpReleasePending s).lfo = s.lfo ∧ (arpReleasePending s).lfoMod = s.lfoMod ∧
    (arpReleasePending s).qVel = s.qVel ∧ (arpReleasePending s).vel = s.vel ∧
    (arpReleasePending s).matrix = s.matrix ∧ (arpReleasePending s).ui = s.ui ∧
    (arpReleasePending s).filter = s.filter ∧ (arpReleasePending s).shape = s.shape ∧
    (arpReleasePending s).alloc = s.alloc ∧ (arpReleasePending s).clock = s.clock ∧
    (arpReleasePending s).ext = s.ext ∧ (arpReleasePending s).seq = s.seq ∧
    (arpReleasePending s).status = s.status ∧ (arpReleasePending s).mem = s.mem ∧
    (arpReleasePending s).ports = s.ports ∧ (arpReleasePending s).params = s.params ∧
    (arpReleasePending s).inputs = s.inputs := by
  unfold arpReleasePending; split <;> simp

@[simp] theorem arpAdvance_frame (n : Nat) (s : State) :
    (arpAdvance n s).osc = s.osc ∧ (arpAdvance n s).voices = s.voices ∧ (arpAdvance n s).engines = s.engines ∧
    (arpAdvance n s).pw = s.pw ∧ (arpAdvance n s).mixer = s.mixer ∧ (arpAdvance n s).env = s.env ∧
    (arpAdvance n s).envMod = s.envMod ∧ (arpAdvance n s).lfo = s.lfo ∧ (arpAdvance n s).lfoMod = s.lfoMod ∧
    (arpAdvance n s).qVel = s.qVel ∧ (arpAdvance n s).vel = s.vel ∧ (arpAdvance n s).matrix = s.matrix ∧
    (arpAdvance n s).ui = s.ui ∧ (arpAdvance n s).filter = s.filter ∧ (arpAdvance n s).shape = s.shape ∧
    (arpAdvance n s).alloc = s.alloc ∧ (arpAdvance n s).clock = s.clock ∧ (arpAdvance n s).ext = s.ext ∧
    (arpAdvance n s).seq = s.seq ∧ (arpAdvance n s).outbox = s.outbox ∧ (arpAdvance n s).status = s.status ∧
    (arpAdvance n s).mem = s.mem ∧ (arpAdvance n s).ports = s.ports ∧ (arpAdvance n s).params = s.params := by
  simp only [arpAdvance, draw]
  repeat' split
  all_goals simp

@[simp] theorem assignUnison_frame (k : Note) (v : Fin 4) (s : State) :
    (assignUnison k v s).engines = s.engines ∧ (assignUnison k v s).pw = s.pw ∧
    (assignUnison k v s).mixer = s.mixer ∧ (assignUnison k v s).env = s.env ∧
    (assignUnison k v s).envMod = s.envMod ∧ (assignUnison k v s).lfo = s.lfo ∧
    (assignUnison k v s).lfoMod = s.lfoMod ∧ (assignUnison k v s).qVel = s.qVel ∧
    (assignUnison k v s).vel = s.vel ∧ (assignUnison k v s).matrix = s.matrix ∧ (assignUnison k v s).ui = s.ui ∧
    (assignUnison k v s).filter = s.filter ∧ (assignUnison k v s).shape = s.shape ∧
    (assignUnison k v s).alloc = s.alloc ∧ (assignUnison k v s).clock = s.clock ∧
    (assignUnison k v s).ext = s.ext ∧ (assignUnison k v s).seq = s.seq ∧ (assignUnison k v s).arp = s.arp ∧
    (assignUnison k v s).outbox = s.outbox ∧ (assignUnison k v s).status = s.status ∧
    (assignUnison k v s).mem = s.mem ∧ (assignUnison k v s).ports = s.ports ∧
    (assignUnison k v s).params = s.params ∧ (assignUnison k v s).inputs = s.inputs := by
  unfold assignUnison; split <;> simp

@[simp] theorem arpAssign_frame (m : Note) (s : State) :
    (arpAssign m s).engines = s.engines ∧ (arpAssign m s).pw = s.pw ∧ (arpAssign m s).mixer = s.mixer ∧
    (arpAssign m s).env = s.env ∧ (arpAssign m s).envMod = s.envMod ∧ (arpAssign m s).lfo = s.lfo ∧
    (arpAssign m s).lfoMod = s.lfoMod ∧ (arpAssign m s).qVel = s.qVel ∧ (arpAssign m s).vel = s.vel ∧
    (arpAssign m s).matrix = s.matrix ∧ (arpAssign m s).ui = s.ui ∧ (arpAssign m s).filter = s.filter ∧
    (arpAssign m s).shape = s.shape ∧ (arpAssign m s).alloc = s.alloc ∧ (arpAssign m s).clock = s.clock ∧
    (arpAssign m s).ext = s.ext ∧ (arpAssign m s).seq = s.seq ∧ (arpAssign m s).arp = s.arp ∧
    (arpAssign m s).outbox = s.outbox ∧ (arpAssign m s).status = s.status ∧ (arpAssign m s).mem = s.mem ∧
    (arpAssign m s).ports = s.ports ∧ (arpAssign m s).params = s.params ∧ (arpAssign m s).inputs = s.inputs := by
  simp only [arpAssign, forVoices]
  repeat' split
  all_goals simp

@[simp] theorem arpPlay_frame (m : Note) (s : State) :
    (arpPlay m s).engines = s.engines ∧ (arpPlay m s).mixer = s.mixer ∧ (arpPlay m s).lfoMod = s.lfoMod ∧
    (arpPlay m s).matrix = s.matrix ∧ (arpPlay m s).ui = s.ui ∧ (arpPlay m s).shape = s.shape ∧
    (arpPlay m s).alloc = s.alloc ∧ (arpPlay m s).clock = s.clock ∧ (arpPlay m s).ext = s.ext ∧
    (arpPlay m s).seq = s.seq ∧ (arpPlay m s).status = s.status ∧ (arpPlay m s).mem = s.mem ∧
    (arpPlay m s).ports = s.ports ∧ (arpPlay m s).params = s.params ∧ (arpPlay m s).inputs = s.inputs := by
  simp [arpPlay]

@[simp] theorem arpStep_frame (s : State) :
    (arpStep s).engines = s.engines ∧ (arpStep s).mixer = s.mixer ∧ (arpStep s).lfoMod = s.lfoMod ∧
    (arpStep s).matrix = s.matrix ∧ (arpStep s).ui = s.ui ∧ (arpStep s).shape = s.shape ∧
    (arpStep s).alloc = s.alloc ∧ (arpStep s).clock = s.clock ∧ (arpStep s).ext = s.ext ∧ (arpStep s).seq = s.seq ∧
    (arpStep s).status = s.status ∧ (arpStep s).mem = s.mem ∧ (arpStep s).ports = s.ports ∧
    (arpStep s).params = s.params := by
  simp only [arpStep]
  repeat' split
  all_goals simp

@[simp] theorem arpDispatch_frame (s : State) :
    (arpDispatch s).engines = s.engines ∧ (arpDispatch s).mixer = s.mixer ∧ (arpDispatch s).lfoMod = s.lfoMod ∧
    (arpDispatch s).matrix = s.matrix ∧ (arpDispatch s).ui = s.ui ∧ (arpDispatch s).shape = s.shape ∧
    (arpDispatch s).alloc = s.alloc ∧ (arpDispatch s).ext = s.ext ∧ (arpDispatch s).seq = s.seq ∧
    (arpDispatch s).status = s.status ∧ (arpDispatch s).mem = s.mem ∧ (arpDispatch s).ports = s.ports ∧
    (arpDispatch s).params = s.params := by
  simp only [arpDispatch]
  repeat' split
  all_goals simp

@[simp] theorem markOthers_frame (v : Fin 4) (s : State) :
    (markOthers v s).osc = s.osc ∧ (markOthers v s).engines = s.engines ∧ (markOthers v s).pw = s.pw ∧
    (markOthers v s).mixer = s.mixer ∧ (markOthers v s).env = s.env ∧ (markOthers v s).envMod = s.envMod ∧
    (markOthers v s).lfo = s.lfo ∧ (markOthers v s).lfoMod = s.lfoMod ∧ (markOthers v s).qVel = s.qVel ∧
    (markOthers v s).vel = s.vel ∧ (markOthers v s).matrix = s.matrix ∧ (markOthers v s).ui = s.ui ∧
    (markOthers v s).filter = s.filter ∧ (markOthers v s).shape = s.shape ∧ (markOthers v s).alloc = s.alloc ∧
    (markOthers v s).clock = s.clock ∧ (markOthers v s).ext = s.ext ∧ (markOthers v s).seq = s.seq ∧
    (markOthers v s).arp = s.arp ∧ (markOthers v s).outbox = s.outbox ∧ (markOthers v s).status = s.status ∧
    (markOthers v s).mem = s.mem ∧ (markOthers v s).ports = s.ports ∧ (markOthers v s).params = s.params ∧
    (markOthers v s).inputs = s.inputs := by
  simp only [markOthers, forVoices]
  repeat' split
  all_goals simp

@[simp] theorem paraKeyOn_frame (k : Note) (vel : Int) (s : State) :
    (paraKeyOn k vel s).engines = s.engines ∧ (paraKeyOn k vel s).mixer = s.mixer ∧
    (paraKeyOn k vel s).lfoMod = s.lfoMod ∧ (paraKeyOn k vel s).matrix = s.matrix ∧ (paraKeyOn k vel s).ui = s.ui ∧
    (paraKeyOn k vel s).shape = s.shape ∧ (paraKeyOn k vel s).alloc = s.alloc ∧
    (paraKeyOn k vel s).clock = s.clock ∧ (paraKeyOn k vel s).ext = s.ext ∧ (paraKeyOn k vel s).seq = s.seq ∧
    (paraKeyOn k vel s).arp = s.arp ∧ (paraKeyOn k vel s).outbox = s.outbox ∧
    (paraKeyOn k vel s).status = s.status ∧ (paraKeyOn k vel s).mem = s.mem ∧ (paraKeyOn k vel s).ports = s.ports ∧
    (paraKeyOn k vel s).params = s.params ∧ (paraKeyOn k vel s).inputs = s.inputs := by
  simp only [paraKeyOn]
  repeat' split
  all_goals simp

@[simp] theorem paraKeyOff_frame (k : Note) (s : State) :
    (paraKeyOff k s).engines = s.engines ∧ (paraKeyOff k s).pw = s.pw ∧ (paraKeyOff k s).mixer = s.mixer ∧
    (paraKeyOff k s).envMod = s.envMod ∧ (paraKeyOff k s).lfo = s.lfo ∧ (paraKeyOff k s).lfoMod = s.lfoMod ∧
    (paraKeyOff k s).qVel = s.qVel ∧ (paraKeyOff k s).vel = s.vel ∧ (paraKeyOff k s).matrix = s.matrix ∧
    (paraKeyOff k s).ui = s.ui ∧ (paraKeyOff k s).filter = s.filter ∧ (paraKeyOff k s).shape = s.shape ∧
    (paraKeyOff k s).alloc = s.alloc ∧ (paraKeyOff k s).clock = s.clock ∧ (paraKeyOff k s).ext = s.ext ∧
    (paraKeyOff k s).seq = s.seq ∧ (paraKeyOff k s).arp = s.arp ∧ (paraKeyOff k s).outbox = s.outbox ∧
    (paraKeyOff k s).status = s.status ∧ (paraKeyOff k s).mem = s.mem ∧ (paraKeyOff k s).ports = s.ports ∧
    (paraKeyOff k s).params = s.params ∧ (paraKeyOff k s).inputs = s.inputs := by
  simp only [paraKeyOff]
  repeat' split
  all_goals simp

@[simp] theorem monoAssign_frame (k : Note) (s : State) :
    (monoAssign k s).engines = s.engines ∧ (monoAssign k s).pw = s.pw ∧ (monoAssign k s).mixer = s.mixer ∧
    (monoAssign k s).env = s.env ∧ (monoAssign k s).envMod = s.envMod ∧ (monoAssign k s).lfo = s.lfo ∧
    (monoAssign k s).lfoMod = s.lfoMod ∧ (monoAssign k s).qVel = s.qVel ∧ (monoAssign k s).vel = s.vel ∧
    (monoAssign k s).matrix = s.matrix ∧ (monoAssign k s).ui = s.ui ∧ (monoAssign k s).filter = s.filter ∧
    (monoAssign k s).shape = s.shape ∧ (monoAssign k s).alloc = s.alloc ∧ (monoAssign k s).clock = s.clock ∧
    (monoAssign k s).ext = s.ext ∧ (monoAssign k s).seq = s.seq ∧ (monoAssign k s).arp = s.arp ∧
    (monoAssign k s).outbox = s.outbox ∧ (monoAssign k s).status = s.status ∧ (monoAssign k s).mem = s.mem ∧
    (monoAssign k s).ports = s.ports ∧ (monoAssign k s).params = s.params ∧ (monoAssign k s).inputs = s.inputs := by
  simp [monoAssign, forVoices]

@[simp] theorem monoKeyOn_frame (k : Note) (vel : Int) (s : State) :
    (monoKeyOn k vel s).engines = s.engines ∧ (monoKeyOn k vel s).mixer = s.mixer ∧
    (monoKeyOn k vel s).lfoMod = s.lfoMod ∧ (monoKeyOn k vel s).matrix = s.matrix ∧ (monoKeyOn k vel s).ui = s.ui ∧
    (monoKeyOn k vel s).shape = s.shape ∧ (monoKeyOn k vel s).clock = s.clock ∧ (monoKeyOn k vel s).ext = s.ext ∧
    (monoKeyOn k vel s).seq = s.seq ∧ (monoKeyOn k vel s).arp = s.arp ∧ (monoKeyOn k vel s).outbox = s.outbox ∧
    (monoKeyOn k vel s).status = s.status ∧ (monoKeyOn k vel s).mem = s.mem ∧ (monoKeyOn k vel s).ports = s.ports ∧
    (monoKeyOn k vel s).params = s.params ∧ (monoKeyOn k vel s).inputs = s.inputs := by
  simp only [monoKeyOn]
  repeat' split
  all_goals simp

@[simp] theorem monoKeyOff_frame (k : Note) (s : State) :
    (monoKeyOff k s).engines = s.engines ∧ (monoKeyOff k s).pw = s.pw ∧ (monoKeyOff k s).mixer = s.mixer ∧
    (monoKeyOff k s).envMod = s.envMod ∧ (monoKeyOff k s).lfo = s.lfo ∧ (monoKeyOff k s).lfoMod = s.lfoMod ∧
    (monoKeyOff k s).qVel = s.qVel ∧ (monoKeyOff k s).vel = s.vel ∧ (monoKeyOff k s).matrix = s.matrix ∧
    (monoKeyOff k s).ui = s.ui ∧ (monoKeyOff k s).filter = s.filter ∧ (monoKeyOff k s).shape = s.shape ∧
    (monoKeyOff k s).clock = s.clock ∧ (monoKeyOff k s).ext = s.ext ∧ (monoKeyOff k s).seq = s.seq ∧
    (monoKeyOff k s).arp = s.arp ∧ (monoKeyOff k s).outbox = s.outbox ∧ (monoKeyOff k s).status = s.status ∧
    (monoKeyOff k s).mem = s.mem ∧ (monoKeyOff k s).ports = s.ports ∧ (monoKeyOff k s).params = s.params ∧
    (monoKeyOff k s).inputs = s.inputs := by
  simp only [monoKeyOff]
  repeat' split
  all_goals simp

@[simp] theorem allocKeyOn_frame (k : Note) (vel : Int) (s : State) :
    (allocKeyOn k vel s).engines = s.engines ∧ (allocKeyOn k vel s).mixer = s.mixer ∧
    (allocKeyOn k vel s).lfoMod = s.lfoMod ∧ (allocKeyOn k vel s).matrix = s.matrix ∧
    (allocKeyOn k vel s).ui = s.ui ∧ (allocKeyOn k vel s).shape = s.shape ∧ (allocKeyOn k vel s).clock = s.clock ∧
    (allocKeyOn k vel s).ext = s.ext ∧ (allocKeyOn k vel s).seq = s.seq ∧ (allocKeyOn k vel s).arp = s.arp ∧
    (allocKeyOn k vel s).outbox = s.outbox ∧ (allocKeyOn k vel s).status = s.status ∧
    (allocKeyOn k vel s).ports = s.ports ∧ (allocKeyOn k vel s).params = s.params ∧
    (allocKeyOn k vel s).inputs = s.inputs := by
  simp only [allocKeyOn]
  repeat' split
  all_goals simp

@[simp] theorem lfoSyncPoint_frame (s : State) :
    (lfoSyncPoint s).osc = s.osc ∧ (lfoSyncPoint s).voices = s.voices ∧ (lfoSyncPoint s).engines = s.engines ∧
    (lfoSyncPoint s).pw = s.pw ∧ (lfoSyncPoint s).mixer = s.mixer ∧ (lfoSyncPoint s).env = s.env ∧
    (lfoSyncPoint s).envMod = s.envMod ∧ (lfoSyncPoint s).lfoMod = s.lfoMod ∧ (lfoSyncPoint s).qVel = s.qVel ∧
    (lfoSyncPoint s).vel = s.vel ∧ (lfoSyncPoint s).matrix = s.matrix ∧ (lfoSyncPoint s).ui = s.ui ∧
    (lfoSyncPoint s).filter = s.filter ∧ (lfoSyncPoint s).shape = s.shape ∧ (lfoSyncPoint s).alloc = s.alloc ∧
    (lfoSyncPoint s).clock = s.clock ∧ (lfoSyncPoint s).ext = s.ext ∧ (lfoSyncPoint s).seq = s.seq ∧
    (lfoSyncPoint s).arp = s.arp ∧ (lfoSyncPoint s).outbox = s.outbox ∧ (lfoSyncPoint s).status = s.status ∧
    (lfoSyncPoint s).mem = s.mem ∧ (lfoSyncPoint s).ports = s.ports ∧ (lfoSyncPoint s).params = s.params ∧
    (lfoSyncPoint s).inputs = s.inputs := by
  unfold lfoSyncPoint; split <;> simp

@[simp] theorem emitMidiClock_frame (s : State) :
    (emitMidiClock s).osc = s.osc ∧ (emitMidiClock s).voices = s.voices ∧ (emitMidiClock s).engines = s.engines ∧
    (emitMidiClock s).pw = s.pw ∧ (emitMidiClock s).mixer = s.mixer ∧ (emitMidiClock s).env = s.env ∧
    (emitMidiClock s).envMod = s.envMod ∧ (emitMidiClock s).lfo = s.lfo ∧ (emitMidiClock s).lfoMod = s.lfoMod ∧
    (emitMidiClock s).qVel = s.qVel ∧ (emitMidiClock s).vel = s.vel ∧ (emitMidiClock s).matrix = s.matrix ∧
    (emitMidiClock s).ui = s.ui ∧ (emitMidiClock s).filter = s.filter ∧ (emitMidiClock s).shape = s.shape ∧
    (emitMidiClock s).alloc = s.alloc ∧ (emitMidiClock s).clock = s.clock ∧ (emitMidiClock s).ext = s.ext ∧
    (emitMidiClock s).seq = s.seq ∧ (emitMidiClock s).arp = s.arp ∧ (emitMidiClock s).status = s.status ∧
    (emitMidiClock s).mem = s.mem ∧ (emitMidiClock s).ports = s.ports ∧ (emitMidiClock s).params = s.params ∧
    (emitMidiClock s).inputs = s.inputs := by
  unfold emitMidiClock; split <;> simp

@[simp] theorem midiClockStep_frame (s : State) :
    (midiClockStep s).osc = s.osc ∧ (midiClockStep s).voices = s.voices ∧ (midiClockStep s).engines = s.engines ∧
    (midiClockStep s).pw = s.pw ∧ (midiClockStep s).mixer = s.mixer ∧ (midiClockStep s).env = s.env ∧
    (midiClockStep s).envMod = s.envMod ∧ (midiClockStep s).lfo = s.lfo ∧ (midiClockStep s).lfoMod = s.lfoMod ∧
    (midiClockStep s).qVel = s.qVel ∧ (midiClockStep s).vel = s.vel ∧ (midiClockStep s).matrix = s.matrix ∧
    (midiClockStep s).ui = s.ui ∧ (midiClockStep s).filter = s.filter ∧ (midiClockStep s).shape = s.shape ∧
    (midiClockStep s).alloc = s.alloc ∧ (midiClockStep s).ext = s.ext ∧ (midiClockStep s).seq = s.seq ∧
    (midiClockStep s).arp = s.arp ∧ (midiClockStep s).status = s.status ∧ (midiClockStep s).mem = s.mem ∧
    (midiClockStep s).ports = s.ports ∧ (midiClockStep s).params = s.params ∧ (midiClockStep s).inputs = s.inputs := by
  unfold midiClockStep; split <;> simp

@[simp] theorem beatStep_frame (s : State) :
    (beatStep s).osc = s.osc ∧ (beatStep s).voices = s.voices ∧ (beatStep s).engines = s.engines ∧
    (beatStep s).pw = s.pw ∧ (beatStep s).mixer = s.mixer ∧ (beatStep s).env = s.env ∧
    (beatStep s).envMod = s.envMod ∧ (beatStep s).lfo = s.lfo ∧ (beatStep s).lfoMod = s.lfoMod ∧
    (beatStep s).qVel = s.qVel ∧ (beatStep s).vel = s.vel ∧ (beatStep s).matrix = s.matrix ∧
    (beatStep s).ui = s.ui ∧ (beatStep s).filter = s.filter ∧ (beatStep s).shape = s.shape ∧
    (beatStep s).alloc = s.alloc ∧ (beatStep s).ext = s.ext ∧ (beatStep s).seq = s.seq ∧ (beatStep s).arp = s.arp ∧
    (beatStep s).outbox = s.outbox ∧ (beatStep s).status = s.status ∧ (beatStep s).mem = s.mem ∧
    (beatStep s).ports = s.ports ∧ (beatStep s).params = s.params ∧ (beatStep s).inputs = s.inputs := by
  refine ⟨rfl, rfl, rfl, rfl, rfl, rfl, rfl, rfl, rfl, rfl, rfl, rfl, rfl, rfl, rfl, rfl, rfl, rfl, rfl, rfl, rfl, rfl, rfl, rfl, rfl⟩

@[simp] theorem setFreeLatch_frame (b : Bool) (s : State) :
    (setFreeLatch b s).osc = s.osc ∧ (setFreeLatch b s).voices = s.voices ∧
    (setFreeLatch b s).engines = s.engines ∧ (setFreeLatch b s).pw = s.pw ∧ (setFreeLatch b s).mixer = s.mixer ∧
    (setFreeLatch b s).env = s.env ∧ (setFreeLatch b s).envMod = s.envMod ∧ (setFreeLatch b s).lfo = s.lfo ∧
    (setFreeLatch b s).lfoMod = s.lfoMod ∧ (setFreeLatch b s).qVel = s.qVel ∧ (setFreeLatch b s).vel = s.vel ∧
    (setFreeLatch b s).matrix = s.matrix ∧ (setFreeLatch b s).ui = s.ui ∧ (setFreeLatch b s).filter = s.filter ∧
    (setFreeLatch b s).shape = s.shape ∧ (setFreeLatch b s).alloc = s.alloc ∧ (setFreeLatch b s).ext = s.ext ∧
    (setFreeLatch b s).seq = s.seq ∧ (setFreeLatch b s).arp = s.arp ∧ (setFreeLatch b s).outbox = s.outbox ∧
    (setFreeLatch b s).status = s.status ∧ (setFreeLatch b s).mem = s.mem ∧ (setFreeLatch b s).ports = s.ports ∧
    (setFreeLatch b s).params = s.params ∧ (setFreeLatch b s).inputs = s.inputs := by
  refine ⟨rfl, rfl, rfl, rfl, rfl, rfl, rfl, rfl, rfl, rfl, rfl, rfl, rfl, rfl, rfl, rfl, rfl, rfl, rfl, rfl, rfl, rfl, rfl, rfl, rfl⟩

@[simp] theorem freePlay_frame (s : State) :
    (freePlay s).osc = s.osc ∧ (freePlay s).voices = s.voices ∧ (freePlay s).engines = s.engines ∧
    (freePlay s).pw = s.pw ∧ (freePlay s).mixer = s.mixer ∧ (freePlay s).envMod = s.envMod ∧
    (freePlay s).lfo = s.lfo ∧ (freePlay s).lfoMod = s.lfoMod ∧ (freePlay s).qVel = s.qVel ∧
    (freePlay s).vel = s.vel ∧ (freePlay s).matrix = s.matrix ∧ (freePlay s).ui = s.ui ∧
    (freePlay s).filter = s.filter ∧ (freePlay s).shape = s.shape ∧ (freePlay s).alloc = s.alloc ∧
    (freePlay s).ext = s.ext ∧ (freePlay s).status = s.status ∧ (freePlay s).mem = s.mem ∧
    (freePlay s).ports = s.ports ∧ (freePlay s).params = s.params ∧ (freePlay s).inputs = s.inputs := by
  simp only [freePlay]
  repeat' split
  all_goals simp

@[simp] theorem pulseAdvance_frame (s : State) :
    (pulseAdvance s).osc = s.osc ∧ (pulseAdvance s).voices = s.voices ∧ (pulseAdvance s).engines = s.engines ∧
    (pulseAdvance s).pw = s.pw ∧ (pulseAdvance s).mixer = s.mixer ∧ (pulseAdvance s).env = s.env ∧
    (pulseAdvance s).envMod = s.envMod ∧ (pulseAdvance s).lfo = s.lfo ∧ (pulseAdvance s).lfoMod = s.lfoMod ∧
    (pulseAdvance s).qVel = s.qVel ∧ (pulseAdvance s).vel = s.vel ∧ (pulseAdvance s).matrix = s.matrix ∧
    (pulseAdvance s).ui = s.ui ∧ (pulseAdvance s).filter = s.filter ∧ (pulseAdvance s).shape = s.shape ∧
    (pulseAdvance s).alloc = s.alloc ∧ (pulseAdvance s).ext = s.ext ∧ (pulseAdvance s).seq = s.seq ∧
    (pulseAdvance s).arp = s.arp ∧ (pulseAdvance s).outbox = s.outbox ∧ (pulseAdvance s).status = s.status ∧
    (pulseAdvance s).mem = s.mem ∧ (pulseAdvance s).ports = s.ports ∧ (pulseAdvance s).params = s.params ∧
    (pulseAdvance s).inputs = s.inputs := by
  unfold pulseAdvance; split <;> simp

@[simp] theorem extPhaseLock_frame (s : State) :
    (extPhaseLock s).osc = s.osc ∧ (extPhaseLock s).voices = s.voices ∧ (extPhaseLock s).engines = s.engines ∧
    (extPhaseLock s).pw = s.pw ∧ (extPhaseLock s).mixer = s.mixer ∧ (extPhaseLock s).env = s.env ∧
    (extPhaseLock s).envMod = s.envMod ∧ (extPhaseLock s).lfo = s.lfo ∧ (extPhaseLock s).lfoMod = s.lfoMod ∧
    (extPhaseLock s).qVel = s.qVel ∧ (extPhaseLock s).vel = s.vel ∧ (extPhaseLock s).matrix = s.matrix ∧
    (extPhaseLock s).ui = s.ui ∧ (extPhaseLock s).filter = s.filter ∧ (extPhaseLock s).shape = s.shape ∧
    (extPhaseLock s).alloc = s.alloc ∧ (extPhaseLock s).ext = s.ext ∧ (extPhaseLock s).seq = s.seq ∧
    (extPhaseLock s).arp = s.arp ∧ (extPhaseLock s).outbox = s.outbox ∧ (extPhaseLock s).status = s.status ∧
    (extPhaseLock s).mem = s.mem ∧ (extPhaseLock s).ports = s.ports ∧ (extPhaseLock s).params = s.params ∧
    (extPhaseLock s).inputs = s.inputs := by
  unfold extPhaseLock; split <;> simp

@[simp] theorem extClockMessage_frame (s : State) :
    (extClockMessage s).osc = s.osc ∧ (extClockMessage s).voices = s.voices ∧
    (extClockMessage s).engines = s.engines ∧ (extClockMessage s).pw = s.pw ∧ (extClockMessage s).mixer = s.mixer ∧
    (extClockMessage s).env = s.env ∧ (extClockMessage s).envMod = s.envMod ∧ (extClockMessage s).lfo = s.lfo ∧
    (extClockMessage s).lfoMod = s.lfoMod ∧ (extClockMessage s).qVel = s.qVel ∧ (extClockMessage s).vel = s.vel ∧
    (extClockMessage s).matrix = s.matrix ∧ (extClockMessage s).ui = s.ui ∧ (extClockMessage s).filter = s.filter ∧
    (extClockMessage s).shape = s.shape ∧ (extClockMessage s).alloc = s.alloc ∧ (extClockMessage s).seq = s.seq ∧
    (extClockMessage s).arp = s.arp ∧ (extClockMessage s).outbox = s.outbox ∧
    (extClockMessage s).status = s.status ∧ (extClockMessage s).mem = s.mem ∧ (extClockMessage s).ports = s.ports ∧
    (extClockMessage s).params = s.params ∧ (extClockMessage s).inputs = s.inputs := by
  simp only [extClockMessage]
  repeat' split
  all_goals simp

@[simp] theorem noticeExtLoss_frame (s : State) :
    (noticeExtLoss s).osc = s.osc ∧ (noticeExtLoss s).voices = s.voices ∧ (noticeExtLoss s).engines = s.engines ∧
    (noticeExtLoss s).pw = s.pw ∧ (noticeExtLoss s).mixer = s.mixer ∧ (noticeExtLoss s).env = s.env ∧
    (noticeExtLoss s).envMod = s.envMod ∧ (noticeExtLoss s).lfo = s.lfo ∧ (noticeExtLoss s).lfoMod = s.lfoMod ∧
    (noticeExtLoss s).qVel = s.qVel ∧ (noticeExtLoss s).vel = s.vel ∧ (noticeExtLoss s).matrix = s.matrix ∧
    (noticeExtLoss s).ui = s.ui ∧ (noticeExtLoss s).filter = s.filter ∧ (noticeExtLoss s).shape = s.shape ∧
    (noticeExtLoss s).alloc = s.alloc ∧ (noticeExtLoss s).seq = s.seq ∧ (noticeExtLoss s).arp = s.arp ∧
    (noticeExtLoss s).outbox = s.outbox ∧ (noticeExtLoss s).status = s.status ∧ (noticeExtLoss s).mem = s.mem ∧
    (noticeExtLoss s).ports = s.ports ∧ (noticeExtLoss s).params = s.params ∧ (noticeExtLoss s).inputs = s.inputs := by
  unfold noticeExtLoss; split <;> simp

@[simp] theorem stepLoadRamp_frame (s : State) :
    (stepLoadRamp s).osc = s.osc ∧ (stepLoadRamp s).voices = s.voices ∧ (stepLoadRamp s).engines = s.engines ∧
    (stepLoadRamp s).pw = s.pw ∧ (stepLoadRamp s).env = s.env ∧ (stepLoadRamp s).envMod = s.envMod ∧
    (stepLoadRamp s).lfo = s.lfo ∧ (stepLoadRamp s).lfoMod = s.lfoMod ∧ (stepLoadRamp s).qVel = s.qVel ∧
    (stepLoadRamp s).vel = s.vel ∧ (stepLoadRamp s).matrix = s.matrix ∧ (stepLoadRamp s).ui = s.ui ∧
    (stepLoadRamp s).filter = s.filter ∧ (stepLoadRamp s).shape = s.shape ∧ (stepLoadRamp s).alloc = s.alloc ∧
    (stepLoadRamp s).clock = s.clock ∧ (stepLoadRamp s).ext = s.ext ∧ (stepLoadRamp s).seq = s.seq ∧
    (stepLoadRamp s).arp = s.arp ∧ (stepLoadRamp s).outbox = s.outbox ∧ (stepLoadRamp s).status = s.status ∧
    (stepLoadRamp s).mem = s.mem ∧ (stepLoadRamp s).ports = s.ports ∧ (stepLoadRamp s).params = s.params ∧
    (stepLoadRamp s).inputs = s.inputs := by
  refine ⟨rfl, rfl, rfl, rfl, rfl, rfl, rfl, rfl, rfl, rfl, rfl, rfl, rfl, rfl, rfl, rfl, rfl, rfl, rfl, rfl, rfl, rfl, rfl, rfl, rfl⟩

@[simp] theorem emitSample_frame (x : Int) (s : State) :
    (emitSample x s).osc = s.osc ∧ (emitSample x s).voices = s.voices ∧ (emitSample x s).engines = s.engines ∧
    (emitSample x s).pw = s.pw ∧ (emitSample x s).env = s.env ∧ (emitSample x s).envMod = s.envMod ∧
    (emitSample x s).lfo = s.lfo ∧ (emitSample x s).lfoMod = s.lfoMod ∧ (emitSample x s).qVel = s.qVel ∧
    (emitSample x s).vel = s.vel ∧ (emitSample x s).matrix = s.matrix ∧ (emitSample x s).ui = s.ui ∧
    (emitSample x s).filter = s.filter ∧ (emitSample x s).shape = s.shape ∧ (emitSample x s).alloc = s.alloc ∧
    (emitSample x s).clock = s.clock ∧ (emitSample x s).ext = s.ext ∧ (emitSample x s).seq = s.seq ∧
    (emitSample x s).arp = s.arp ∧ (emitSample x s).outbox = s.outbox ∧ (emitSample x s).status = s.status ∧
    (emitSample x s).mem = s.mem ∧ (emitSample x s).ports = s.ports ∧ (emitSample x s).params = s.params ∧
    (emitSample x s).inputs = s.inputs := by
  refine ⟨rfl, rfl, rfl, rfl, rfl, rfl, rfl, rfl, rfl, rfl, rfl, rfl, rfl, rfl, rfl, rfl, rfl, rfl, rfl, rfl, rfl, rfl, rfl, rfl, rfl⟩

end Sys2Proof.Machine
end

