-- ==== Sys2Proof/Laws/Memory.lean ====
section
/-! SUPPORT. The table memories: a read after a write, a read after a rebuild, and the canonical form kept by every
memory operation (log 9). -/

namespace Sys2Proof.Machine

/-! ## Lists with rising indices -/

/-- The indices of a table rise strictly. -/
abbrev Table.Rising (t : Table) : Prop := t.Pairwise fun c d => c.1 < d.1

theorem Table.wf_iff {dflt : Nat → Sample} {n : Nat} {t : Table} :
    Table.wf dflt n t = true ↔ (∀ c ∈ t, c.1 < n ∧ c.2 ≠ dflt c.1) ∧ t.Rising := by
  simp [Table.wf, List.all_eq_true]

/-- Nothing is listed below the first index. -/
theorem Table.find_eq_none_of_lt {t : Table} {a : Nat} (h : ∀ c ∈ t, a < c.1) : Table.find t a = none := by
  cases t with
  | nil => rfl
  | cons c rest =>
    have := h c (by simp)
    simp [Table.find, this, Nat.ne_of_gt this]

theorem Table.mem_erase {t : Table} {a : Nat} {c : Nat × Sample} (h : c ∈ Table.erase t a) : c ∈ t := by
  induction t with
  | nil => cases h
  | cons d rest ih =>
    simp only [Table.erase] at h
    split at h
    · exact List.mem_cons_of_mem _ h
    · split at h
      · exact h
      · rcases List.mem_cons.1 h with h | h
        · exact h ▸ List.mem_cons_self
        · exact List.mem_cons_of_mem _ (ih h)

theorem Table.mem_insert {t : Table} {a : Nat} {x : Sample} {c : Nat × Sample} (h : c ∈ Table.insert t a x) :
    c = (a, x) ∨ c ∈ t := by
  induction t with
  | nil => simpa [Table.insert] using h
  | cons d rest ih =>
    simp only [Table.insert] at h
    split at h
    · rcases List.mem_cons.1 h with h | h
      · exact .inl h
      · exact .inr (List.mem_cons_of_mem _ h)
    · split at h
      · simpa using h
      · rcases List.mem_cons.1 h with h | h
        · exact .inr (h ▸ List.mem_cons_self)
        · exact (ih h).imp id (List.mem_cons_of_mem _)

theorem Table.erase_rising {t : Table} (h : t.Rising) (a : Nat) : (Table.erase t a).Rising := by
  induction t with
  | nil => exact h
  | cons d rest ih =>
    have hr := List.pairwise_cons.1 h
    simp only [Table.erase]
    split
    · exact hr.2
    · split
      · exact h
      · exact List.pairwise_cons.2 ⟨fun c hc => hr.1 c (Table.mem_erase hc), ih hr.2⟩

theorem Table.insert_rising {t : Table} (h : t.Rising) (a : Nat) (x : Sample) : (Table.insert t a x).Rising := by
  induction t with
  | nil => simp [Table.insert, Table.Rising]
  | cons d rest ih =>
    have hr := List.pairwise_cons.1 h
    simp only [Table.insert]
    split
    · next hd => exact List.pairwise_cons.2 ⟨fun c hc => hd ▸ hr.1 c hc, hr.2⟩
    · split
      · next hlt =>
        refine List.pairwise_cons.2 ⟨fun c hc => ?_, h⟩
        rcases List.mem_cons.1 hc with rfl | hc
        · exact hlt
        · exact Nat.lt_trans hlt (hr.1 c hc)
      · next h1 h2 =>
        refine List.pairwise_cons.2 ⟨fun c hc => ?_, ih hr.2⟩
        rcases Table.mem_insert hc with rfl | hc
        · show d.1 < a; omega
        · exact hr.1 c hc

theorem Table.find_erase {t : Table} (h : t.Rising) (a b : Nat) :
    Table.find (Table.erase t a) b = if b = a then none else Table.find t b := by
  induction t with
  | nil => simp [Table.erase, Table.find]
  | cons d rest ih =>
    have hr := List.pairwise_cons.1 h
    have ih := ih hr.2
    by_cases hda : d.1 = a
    · simp only [Table.erase, hda, if_true]
      by_cases hba : b = a
      · simp only [hba, if_true]
        exact Table.find_eq_none_of_lt fun c hc => hda ▸ hr.1 c hc
      · simp only [hba, if_false, Table.find, hda]
        rw [if_neg (fun e => hba e.symm)]
        by_cases hlt : b < a
        · rw [if_pos hlt]
          exact Table.find_eq_none_of_lt fun c hc => by have := hr.1 c hc; omega
        · rw [if_neg hlt]
    · simp only [Table.erase, hda, if_false]
      by_cases had : a < d.1
      · simp only [had, if_true]
        by_cases hba : b = a
        · simp only [hba, if_true, Table.find, hda, if_false, had]
        · simp only [hba, if_false]
      · simp only [had, if_false, Table.find, ih]
        by_cases hba : b = a
        · simp only [hba, if_true, hda, if_false, had]
        · simp only [hba, if_false]

theorem Table.find_insert {t : Table} (a b : Nat) (x : Sample) :
    Table.find (Table.insert t a x) b = if b = a then some x else Table.find t b := by
  induction t with
  | nil =>
    by_cases hba : b = a
    · simp [Table.insert, Table.find, hba]
    · simp [Table.insert, Table.find, hba, Ne.symm hba]
  | cons d rest ih =>
    by_cases hda : d.1 = a
    · by_cases hba : b = a
      · simp [Table.insert, Table.find, hda, hba]
      · simp [Table.insert, Table.find, hda, hba, Ne.symm hba]
    · by_cases had : a < d.1
      · by_cases hba : b = a
        · simp [Table.insert, Table.find, hda, had, hba]
        · simp only [Table.insert, hda, if_false, had, if_true, Table.find, Ne.symm hba, hba]
          by_cases hlt : b < a
          · rw [if_pos hlt, if_neg (by omega), if_pos (by omega)]
          · rw [if_neg hlt]
      · simp only [Table.insert, hda, if_false, had, Table.find, ih]
        by_cases hba : b = a
        · simp only [hba, if_true, hda, if_false, had]
        · simp only [hba, if_false]

/-! ## Reads and the canonical form -/

/-- A read after a write. -/
theorem Table.read_write {dflt : Nat → Sample} {t : Table} (h : t.Rising) (a b : Nat) (x : Sample) :
    Table.read dflt (Table.write dflt t a x) b = if b = a then x else Table.read dflt t b := by
  unfold Table.read Table.write
  split
  · next hx =>
    rw [Table.find_erase h]
    split
    · next hb => simp [hb, hx]
    · rfl
  · rw [Table.find_insert]
    split <;> rfl

theorem Table.write_wf {dflt : Nat → Sample} {n : Nat} {t : Table} (h : Table.wf dflt n t = true) {a : Nat}
    (ha : a < n) (x : Sample) : Table.wf dflt n (Table.write dflt t a x) = true := by
  rw [Table.wf_iff] at h ⊢
  unfold Table.write
  split
  · exact ⟨fun c hc => h.1 c (Table.mem_erase hc), Table.erase_rising h.2 a⟩
  · next hx =>
    refine ⟨fun c hc => ?_, Table.insert_rising h.2 a x⟩
    rcases Table.mem_insert hc with rfl | hc
    · exact ⟨ha, hx⟩
    · exact h.1 c hc

theorem Table.mem_build {dflt f : Nat → Sample} {n : Nat} {c : Nat × Sample} :
    c ∈ Table.build dflt f n ↔ c.1 < n ∧ c.2 = f c.1 ∧ f c.1 ≠ dflt c.1 := by
  unfold Table.build
  simp only [List.mem_filterMap, List.mem_range]
  constructor
  · rintro ⟨x, hx, hc⟩
    split at hc
    · cases hc
    · next hne => cases hc; exact ⟨hx, rfl, hne⟩
  · rintro ⟨hx, h1, h2⟩
    exact ⟨c.1, hx, by rw [if_neg h2, ← h1]⟩

theorem Table.build_wf (dflt f : Nat → Sample) (n : Nat) : Table.wf dflt n (Table.build dflt f n) = true := by
  rw [Table.wf_iff]
  refine ⟨fun c hc => ?_, ?_⟩
  · obtain ⟨h1, h2, h3⟩ := Table.mem_build.1 hc
    exact ⟨h1, h2 ▸ h3⟩
  · unfold Table.build Table.Rising
    rw [List.pairwise_filterMap]
    refine List.Pairwise.imp ?_ (List.pairwise_lt_range (n := n))
    intro a b hab c hc d hd
    split at hc
    · cases hc
    · split at hd
      · cases hd
      · cases hc; cases hd; exact hab

/-- What is found in a rising table: exactly what is listed. -/
theorem Table.find_eq_some {t : Table} (h : t.Rising) {a : Nat} {x : Sample} :
    Table.find t a = some x ↔ (a, x) ∈ t := by
  induction t with
  | nil => simp [Table.find]
  | cons d rest ih =>
    have hr := List.pairwise_cons.1 h
    obtain ⟨b, y⟩ := d
    by_cases hba : b = a
    · subst hba
      simp only [Table.find, if_true, Option.some.injEq, List.mem_cons, Prod.mk.injEq, true_and]
      constructor
      · rintro rfl; exact .inl rfl
      · rintro (rfl | hm)
        · rfl
        · exact absurd (hr.1 _ hm) (Nat.lt_irrefl _)
    · by_cases hab : a < b
      · simp only [Table.find, hba, if_false, hab, if_true, List.mem_cons, Prod.mk.injEq]
        constructor
        · intro h; cases h
        · rintro (⟨rfl, -⟩ | hm)
          · exact absurd hab (Nat.lt_irrefl _)
          · exact absurd (hr.1 _ hm) (by simp; omega)
      · simp only [Table.find, hba, if_false, hab, ih hr.2, List.mem_cons, Prod.mk.injEq]
        constructor
        · exact .inr
        · rintro (⟨rfl, -⟩ | hm)
          · exact absurd rfl hba
          · exact hm

/-- A read after a rebuild (20_memory R84). -/
theorem Table.read_build {dflt f : Nat → Sample} {n a : Nat} (ha : a < n) :
    Table.read dflt (Table.build dflt f n) a = f a := by
  have hr := (Table.wf_iff.1 (Table.build_wf dflt f n)).2
  unfold Table.read
  by_cases h : f a = dflt a
  · cases hf : Table.find (Table.build dflt f n) a with
    | none => simp [h]
    | some x =>
      have := Table.mem_build.1 ((Table.find_eq_some hr).1 hf)
      exact absurd h this.2.2
  · have hm : (a, f a) ∈ Table.build dflt f n := Table.mem_build.2 ⟨ha, rfl, h⟩
    rw [(Table.find_eq_some hr).2 hm]
    rfl

/-! ## The memory -/

theorem Memory.wf_iff {m : Memory} :
    m.wf = true ↔ ∀ T : Space, Table.wf T.unlisted T.size (m.table T) = true := by
  constructor
  · intro h T
    refine List.all_eq_true.1 h T ?_
    cases T with
    | user u => fin_cases u <;> simp
    | vol e => fin_cases e <;> simp
    | shaper => simp
    | gain => simp
  · intro h
    exact List.all_eq_true.2 fun T _ => h T

@[simp] theorem Memory.table_setTable (m : Memory) (T U : Space) (t : Table) :
    (m.setTable T t).table U = if U = T then t else m.table U := by
  cases T <;> cases U <;> simp [Memory.setTable, Memory.table, Vector.getElem_set, Fin.ext_iff, eq_comm]

@[simp] theorem Memory.setTable_seq (m : Memory) (T : Space) (t : Table) : (m.setTable T t).seq = m.seq := by
  cases T <;> rfl

theorem Memory.setTable_wf {m : Memory} (h : m.wf = true) {T : Space} {t : Table}
    (ht : Table.wf T.unlisted T.size t = true) : (m.setTable T t).wf = true := by
  rw [Memory.wf_iff] at h ⊢
  intro U
  rw [Memory.table_setTable]
  split
  · next hU => exact hU ▸ ht
  · exact h U

/-- A read after a write of one word: the word written there, every other word of every table memory as before. -/
theorem Memory.read_write {m : Memory} (h : m.wf = true) (T U : Space) (a b : Nat) (x : Sample) :
    (m.write T a x).read U b = if U = T ∧ b = a then x else m.read U b := by
  have hr := (Table.wf_iff.1 (Memory.wf_iff.1 h T)).2
  unfold Memory.read Memory.write
  rw [Memory.table_setTable]
  by_cases hU : U = T
  · subst hU
    simp only [if_true, true_and]
    exact Table.read_write hr a b x
  · simp [hU]

/-- A read after a rebuild: the word the rebuild gives, every other table memory as before (20_memory R84). -/
theorem Memory.read_fill (m : Memory) (T U : Space) (f : Nat → Sample) {b : Nat} (hb : b < U.size) :
    (m.fill T f).read U b = if U = T then f b else m.read U b := by
  unfold Memory.read Memory.fill
  rw [Memory.table_setTable]
  by_cases hU : U = T
  · subst hU
    simp only [if_true]
    exact Table.read_build hb
  · simp [hU]

theorem Memory.write_wf {m : Memory} (h : m.wf = true) {T : Space} {a : Nat} (ha : a < T.size) (x : Sample) :
    (m.write T a x).wf = true :=
  Memory.setTable_wf h (Table.write_wf (Memory.wf_iff.1 h T) ha x)

theorem Memory.fill_wf {m : Memory} (h : m.wf = true) (T : Space) (f : Nat → Sample) : (m.fill T f).wf = true :=
  Memory.setTable_wf h (Table.build_wf _ _ _)

@[simp] theorem Memory.write_seq (m : Memory) (T : Space) (a : Nat) (x : Sample) : (m.write T a x).seq = m.seq :=
  Memory.setTable_seq _ _ _

@[simp] theorem Memory.fill_seq (m : Memory) (T : Space) (f : Nat → Sample) : (m.fill T f).seq = m.seq :=
  Memory.setTable_seq _ _ _

@[simp] theorem Memory.setSeq_table (m : Memory) (q : Fin 8) (x : Sequence) (T : Space) :
    (m.setSeq q x).table T = m.table T := by cases T <;> rfl

@[simp] theorem Memory.setSeq_read (m : Memory) (q : Fin 8) (x : Sequence) (T : Space) (a : Nat) :
    (m.setSeq q x).read T a = m.read T a := by simp [Memory.read]

@[simp] theorem Memory.setSeq_wf (m : Memory) (q : Fin 8) (x : Sequence) : (m.setSeq q x).wf = m.wf := by
  simp [Memory.wf]

@[simp] theorem Memory.setSeq_seq (m : Memory) (q : Fin 8) (x : Sequence) : (m.setSeq q x).seq = m.seq.set q x := rfl

/-- The memory after reset is in canonical form. -/
theorem reset_mem_wf : State.reset.mem.wf = true := by decide

/-! ## Reads by index -/

/-- MemRead answers exactly inside the table (20_memory R83). -/
theorem memRead_eq_some {T : Space} {a : Int} {s : State} (h0 : 0 ≤ a) (h1 : a < (T.size : Int)) :
    memRead T a s = some ((s.mem.read T a.toNat).toNat : Int) := if_pos ⟨h0, h1⟩

/-- What MemRead answers is a sample. -/
theorem memRead_isSample {T : Space} {a x : Int} {s : State} (h : memRead T a s = some x) : IsSample x := by
  unfold memRead at h
  split at h
  · cases h; exact sample_isSample _
  · cases h

end Sys2Proof.Machine
end

