-- ==== Sys2Proof/Laws/Invariant.lean ====
section
/-! SUPPORT. The invariants of 10_state R55, one shared operation at a time: each keeps a legal state legal. -/

namespace Sys2Proof.Machine

variable {s : State}

theorem Inv.ite {c : Prop} [Decidable c] {a b : State} (ha : Inv a) (hb : Inv b) : Inv (if c then a else b) := by
  split
  · exact ha
  · exact hb

/-! ## Replacing one part -/

theorem Inv.withOsc {x : Vector Osc 8} (h : Inv s) (hx : ∀ o : Fin 8, OscOk s.params x[o]) : Inv (s.withOsc x) :=
  { h with osc := hx }
theorem Inv.withVoices {x : Vector Voice 4} (h : Inv s) (hx : ∀ v : Fin 4, VoiceOk s.params x[v]) (hk : KeysDistinct x) :
    Inv (s.withVoices x) := { h with voices := hx, keys := hk }
theorem Inv.withEngines {x : Vector Engine 2} (h : Inv s) (hx : ∀ e : Fin 2, EngineOk s.params x[e]) : Inv (s.withEngines x) :=
  { h with engines := hx }
theorem Inv.withPw {x : PulseWidth} (h : Inv s) (hx : PwOk x) : Inv (s.withPw x) := { h with pw := hx }
theorem Inv.withMixer {x : Mixer} (h : Inv s) (hx : MixerOk s.params x) : Inv (s.withMixer x) := { h with mixer := hx }
theorem Inv.withEnv {x : Envelope} (h : Inv s) (hx : EnvOk x) : Inv (s.withEnv x) := { h with env := hx }
theorem Inv.withEnvMod {x : EnvMod} (h : Inv s) (hx : EnvModOk x) : Inv (s.withEnvMod x) := { h with envMod := hx }
theorem Inv.withLfo {x : Lfo} (h : Inv s) (hx : LfoOk s.params x) : Inv (s.withLfo x) := { h with lfo := hx }
theorem Inv.withLfoMod {x : LfoMod} (h : Inv s) (hx : LfoModOk x) : Inv (s.withLfoMod x) := { h with lfoMod := hx }
theorem Inv.withQVel {x : VelMod} (h : Inv s) (hx : VelModOk x) : Inv (s.withQVel x) := { h with qVel := hx }
theorem Inv.withVel {x : VelMod} (h : Inv s) (hx : VelModOk x) : Inv (s.withVel x) := { h with vel := hx }
theorem Inv.withMatrix {x : Vector Int 17} (h : Inv s) (hx : MatrixOk x) : Inv (s.withMatrix x) :=
  { h with matrix := hx }
theorem Inv.withUi {x : Ui} (h : Inv s) (hx : UiOk s.params x) : Inv (s.withUi x) := { h with ui := hx }
theorem Inv.withFilter {x : Filter} (h : Inv s) (hx : FilterOk s.params x) : Inv (s.withFilter x) := { h with filter := hx }
theorem Inv.withShape {x : ShapeParams} (h : Inv s) (hx : ShapeOk s.params x) : Inv (s.withShape x) := { h with shape := hx }
theorem Inv.withAlloc {x : Alloc} (h : Inv s) (hx : AllocOk s.params x) : Inv (s.withAlloc x) := { h with alloc := hx }
/-- The clock, where the measure stays the same. -/
theorem Inv.withClock {x : Clock} (h : Inv s) (hx : ClockOk s.params x) (hd : x.div = s.clock.div) : Inv (s.withClock x) :=
  { h with
    clock := hx
    seq := by have := h.seq; simpa [measure, currentSeq, hd] using this
    arp := by have := h.arp; simpa [measure, hd] using this }
theorem Inv.withExt {x : ExtSync} (h : Inv s) (hx : ExtOk x) : Inv (s.withExt x) := { h with ext := hx }
theorem Inv.withSeq {x : Transport} (h : Inv s) (hx : SeqOk (measure s) (s.mem.seq[x.cur]).patternLength x) :
    Inv (s.withSeq x) := { h with seq := hx }
theorem Inv.withArp {x : Arp} (h : Inv s) (hx : ArpOk s.params (measure s) x) : Inv (s.withArp x) := { h with arp := hx }
theorem Inv.withOutbox {x : Outbox} (h : Inv s) (hx : OutboxOk s.params x) : Inv (s.withOutbox x) := { h with outbox := hx }
theorem Inv.withStatus {x : Status} (h : Inv s) : Inv (s.withStatus x) := { h with }
/-- The memory, where the sequences stay the same. -/
theorem Inv.withMem {x : Memory} (h : Inv s) (hx : x.wf = true) (hs : x.seq = s.mem.seq) : Inv (s.withMem x) :=
  { h with
    mem := ⟨hx, by rw [State.withMem_mem, hs]; exact h.mem.2⟩
    seq := by have := h.seq; simpa [measure, currentSeq, hs] using this }
theorem Inv.withPorts {x : Ports} (h : Inv s) (hx : PortsOk x) : Inv (s.withPorts x) := { h with ports := hx }
/-- The inputs are whatever the platform makes them. -/
theorem Inv.withInputs {x : Inputs} (h : Inv s) : Inv (s.withInputs x) := { h with }

/-! ## Random draws -/

theorem Inv.draw (h : Inv s) (lo hi : Int) : Inv (draw lo hi s).2 := h.withInputs

/-! ## Depths -/

theorem Inv.depth (h : Inv s) (k : ModSlot) : IsGain (s.depth k) := h.matrix k.index

/-! ## Oscillators -/

theorem advancePhase_ok {p : Params} {x : Osc} (hp : p.Legal) (h : OscOk p x) : OscOk p (advancePhase p.cycle x) := by
  obtain ⟨⟨h1, h2⟩, ⟨h3, h4⟩, h5, h6⟩ := h
  have := hp.incMax
  refine ⟨?_, ⟨h3, h4⟩, h5, h6⟩
  simp only [advancePhase]
  split_ifs <;> omega

theorem Inv.phaseAdvance (h : Inv s) : Inv (phaseAdvance s) :=
  h.withOsc fun o => by
    have := advancePhase_ok h.params (h.osc o)
    simpa using this

theorem oscTarget_isInc (h : Inv s) (o : Fin 8) (n : Note) : IsInc s.params (oscTarget o n s) :=
  clamp_bounds h.params.incMax.1.le _

theorem glideActive_lt {x : Voice} (h : glideActive x s = true) : s.since x.portaT0 < s.alloc.portaTime := by
  simp only [glideActive, Bool.and_eq_true, decide_eq_true_eq] at h
  exact h.2

theorem deriveOsc_ok (h : Inv s) (o : Fin 8) : OscOk s.params (deriveOsc s o) := by
  have ho := h.osc o
  simp only [deriveOsc]
  split
  · exact ho
  · next n _ =>
    have ht := oscTarget_isInc h o n
    refine ⟨ho.1, ?_, ht, ?_⟩
    · dsimp only
      split
      · next hg =>
        simp only [Bool.and_eq_true] at hg
        exact lerp_bounds ho.2.2.2 ht (glideActive_lt hg.1)
      · exact ht
    · dsimp only
      split
      · exact ho.2.2.2
      · exact ht

/-- A map over the voices that leaves notes and keys alone keeps their part of the invariant. -/
theorem Inv.mapVoices {f : Voice → Voice} (h : Inv s) (hn : ∀ x, (f x).note = x.note ∨ (f x).note = none)
    (hk : ∀ x, (f x).key = x.key ∨ (f x).key = none)
    (hsame : (∀ x, (f x).key = x.key) ∨ ∀ x, (f x).key = none) : Inv (s.mapVoices f) := by
  refine h.withVoices (fun v => ?_) (fun i j hij => ?_)
  · have hv : VoiceOk s.params s.voices[v.val] := h.voices v
    simp only [Fin.getElem_fin, Vector.getElem_map]
    refine ⟨fun n hn' => ?_, fun n hn' => ?_⟩
    · rcases hn s.voices[v.val] with e | e
      · exact hv.1 n (by rwa [e] at hn')
      · simp [e] at hn'
    · rcases hk s.voices[v.val] with e | e
      · exact hv.2 n (by rwa [e] at hn')
      · simp [e] at hn'
  · simp only [Fin.getElem_fin, Vector.getElem_map]
    rcases hsame with e | e
    · simpa [e] using h.keys i j hij
    · exact .inl (e _)

theorem Inv.deriveIncrements (h : Inv s) : Inv (deriveIncrements s) := by
  have h1 : Inv (s.withOsc (Vector.ofFn (deriveOsc s))) :=
    h.withOsc fun o => by simpa using deriveOsc_ok h o
  exact Inv.mapVoices (f := endGlide s) h1 (fun _ => .inl rfl) (fun _ => .inl rfl) (.inl fun _ => rfl)

theorem Inv.updatePulseWidth (h : Inv s) : Inv (updatePulseWidth s) := by
  refine h.withPw ⟨h.pw.1, ?_⟩
  have hb := clamp_bounds (lo := 0) (hi := Config.gainMax) (by decide) (s.pw.knob + s.vel.pw)
  have key : ∀ e : Int, IsGain e → IsGain e ∧ 0 ≤ asr (e * (Config.tableLen : Int)) 10 ∧
      asr (e * (Config.tableLen : Int)) 10 < 600 := by
    intro e he
    refine ⟨he, ?_⟩
    simp only [IsGain, asr, Config.tableLen] at *
    omega
  refine key _ ?_
  split
  · exact clamp_bounds (by decide) _
  · exact hb

/-! ## Filter -/

theorem feedback_bounds {p : Params} {r c : Int} (hp : p.Legal) (hr : 0 ≤ r ∧ r ≤ p.coefMax)
    (hc : 0 ≤ c ∧ c ≤ p.coefMax) : 0 ≤ feedback p r c ∧ feedback p r c ≤ 2 * p.coefMax := by
  have hu := hp.fx.2
  have hu1 : 0 ≤ p.fxUnity - c / 128 ∧ p.fxUnity - c / 128 ≤ p.coefMax + 1 := by omega
  have hpow : (2 : Int) ^ p.fxShift = p.coefMax + 1 := by simp [Params.coefMax]
  have hb := asr_bounds (a := r * (p.fxUnity - c / 128)) (lo := 0) (hi := r) (k := p.fxShift)
    (by simpa using mul_nonneg hr.1 hu1.1) (by rw [hpow]; nlinarith)
  simp only [feedback, Config.cutFbDiv]
  omega

theorem effectiveCutoff_bounds (s : State) : 0 ≤ effectiveCutoff s ∧ effectiveCutoff s ≤ s.params.coefMax :=
  clamp_bounds (coefMax_nonneg _) _

theorem Inv.updateFilterCoef (h : Inv s) : Inv (updateFilterCoef s) := by
  obtain ⟨h1, h2, h3, h4, h5, h6⟩ := h.filter
  have hc := effectiveCutoff_bounds s
  exact h.withFilter ⟨h1, h2, hc, feedback_bounds h.params h6 hc, h5, h6⟩

theorem Inv.filterStep (h : Inv s) (x : Int) : Inv (filterStep x s).2 := by
  unfold Machine.filterStep
  split
  · exact h
  · obtain ⟨h1, h2, h3⟩ := h.filter
    exact h.withFilter ⟨wrap32_isWord32 _, wrap32_isWord32 _, h3⟩

/-! ## Envelope -/

theorem Inv.queueVelocity (h : Inv s) : Inv (queueVelocity s) := by
  have hv := h.env.2.2.1
  have d := h.depth
  have hp1 := d .velPitch1; have hp2 := d .velPitch2; have hc := d .velCut
  have ha := d .velAmp; have hw := d .velPw; have hr := d .velRate
  have hrate := h.lfo.2.2.2.2.1
  have hm := h.params.velPitch
  simp only [IsGain, IsVel] at *
  refine h.withQVel ⟨?_, ?_, ?_, ?_, ?_⟩
  · intro e
    fin_cases e
    · exact mul_nonneg (mul_nonneg hv.1 hp1.1) hm
    · exact mul_nonneg (mul_nonneg hv.1 hp2.1) hm
  · have h1 := asr_mono (mul_nonneg hv.1 hc.1) h.params.velCut
    have h2 := asr_bounds (a := s.env.pendVel * s.depth .velCut) (lo := 0) (hi := 255) (k := 9) (by nlinarith)
      (by norm_num; nlinarith)
    exact ⟨h1.1, h1.2.trans h2.2⟩
  · simp only [IsGain, Config.gainMax, Config.velMax]
    have h1 : 0 ≤ (127 - s.env.pendVel) * s.depth .velAmp := mul_nonneg (by omega) (by omega)
    have h2 : (127 - s.env.pendVel) * s.depth .velAmp ≤ 127 * 1023 := by nlinarith
    omega
  · have h1 := asr_mono (mul_nonneg hv.1 hw.1) h.params.velPw
    have h2 := asr_bounds (a := s.env.pendVel * s.depth .velPw) (lo := 0) (hi := 1023) (k := 7) (by nlinarith)
      (by norm_num; nlinarith)
    exact ⟨h1.1, h1.2.trans h2.2⟩
  · have : 0 ≤ (s.lfo.rate - s.params.lfoTicksMin) * s.env.pendVel * s.depth .velRate :=
      mul_nonneg (mul_nonneg (by omega) (by omega)) (by omega)
    exact Int.ediv_nonneg this (by decide)

theorem Inv.envOutputs (h : Inv s) : Inv (envOutputs s) := by
  have ha := h.env.1
  have d := h.depth
  have h1 := d .envPitch1; have h2 := d .envPitch2; have h3 := d .envCut; have h4 := d .envRate
  simp only [IsGain] at *
  refine h.withEnvMod ⟨?_, ?_, ?_⟩
  · intro e
    fin_cases e <;> simp <;> nlinarith
  · have k1 := asr_mono (mul_nonneg ha.1 h3.1) h.params.envCut
    have k2 := asr_bounds (a := s.env.amp * s.depth .envCut) (lo := 0) (hi := 255) (k := 12) (by nlinarith)
      (by norm_num; nlinarith)
    exact ⟨k1.1, k1.2.trans k2.2⟩
  · exact Int.ediv_nonneg (mul_nonneg ha.1 h4.1) (by positivity)

theorem Inv.retrigLfo (h : Inv s) : Inv (retrigLfo s) := by
  unfold Machine.retrigLfo
  split
  · obtain ⟨h1, h2, h3⟩ := h.lfo
    exact h.withLfo ⟨by simp, by simp, h3⟩
  · exact h

theorem Inv.enterAttack (h : Inv s) : Inv (enterAttack s) := by
  unfold Machine.enterAttack
  obtain ⟨ha, hs, hv, hr⟩ := h.env
  have h1 := h.withEnv (x := { s.env with trigPending := false, start := s.env.amp }) ⟨ha, ha, hv, hr⟩
  have h2 := h1.mapVoices (f := applyMute) (fun _ => .inl rfl) (fun _ => .inl rfl) (.inl fun _ => rfl)
  have h3 := (h2.withVel h2.qVel).retrigLfo
  refine Inv.deriveIncrements (Inv.updatePulseWidth (Inv.updateFilterCoef (Inv.envOutputs (h3.withEnv ?_))))
  exact h3.env

theorem Inv.envTrigStep (h : Inv s) : Inv (envTrigStep s) := by
  unfold Machine.envTrigStep
  split
  · next hc =>
    obtain ⟨ha, hr⟩ := h.env
    refine h.withEnv ⟨?_, hr⟩
    have := h.params.click
    simp only [IsGain] at *
    omega
  · exact h.enterAttack

theorem Inv.envTriggerWith (h : Inv s) {vel : Int} (hv : IsVel vel) : Inv (envTriggerWith vel s) := by
  unfold Machine.envTriggerWith
  obtain ⟨ha, hs, -, hr⟩ := h.env
  have h1 := (h.withEnv (x := { s.env with pendVel := vel }) ⟨ha, hs, hv, hr⟩).queueVelocity
  exact (h1.withEnv (x := { (Machine.queueVelocity _).env with trigPending := true }) h1.env).envTrigStep

theorem Inv.envReleaseNow (h : Inv s) : Inv (envReleaseNow s) := by
  obtain ⟨ha, hs, hr⟩ := h.env
  have h1 := h.withEnv (x := { s.env with trigPending := false }) ⟨ha, hs, hr⟩
  simp only [Machine.envReleaseNow]
  split
  · exact h1.withEnv ⟨ha, ha, hr⟩
  · exact h1

theorem Inv.envComplete (h : Inv s) : Inv (envComplete s) := by
  unfold Machine.envComplete
  obtain ⟨ha, hr⟩ := h.env
  have h1 := (h.withEnv (x := { s.env with amp := 0, stage := .idle }) ⟨(by decide : IsGain 0), hr⟩).envOutputs.updateFilterCoef
  have h2 := h1.mapVoices (f := clearVoice) (fun _ => .inr rfl) (fun _ => .inr rfl) (.inr fun _ => rfl)
  obtain ⟨b1, b2, b3, b4, -⟩ := h2.alloc
  exact h2.withAlloc ⟨b1, b2, b3, b4, by simp, by simp, by simp⟩

theorem Inv.envEvaluated (h : Inv s) : Inv (envEvaluated s) := h.envOutputs.updateFilterCoef.deriveIncrements

theorem segmentOver_false {dur : Nat} (h : ¬ segmentOver dur s = true) : s.since s.env.t0 < dur := by
  simp only [segmentOver, Bool.or_eq_true, decide_eq_true_eq] at h
  omega

theorem Inv.enterStage (h : Inv s) {stage : Stage} {level : Int} (hl : IsGain level) :
    Inv (enterStage stage level s) := by
  obtain ⟨ha, hs, hr⟩ := h.env
  exact h.withEnv ⟨hl, hl, hr⟩

theorem Inv.rampTo (h : Inv s) {a b : Int} {dur : Nat} (ha : IsGain a) (hb : IsGain b)
    (hd : ¬ segmentOver dur s = true) : Inv (rampTo a b dur s) := by
  obtain ⟨-, hr⟩ := h.env
  exact h.withEnv ⟨lerp_bounds ha hb (segmentOver_false hd), hr⟩

theorem Inv.envTickStep (h : Inv s) : Inv (envTickStep s) := by
  obtain ⟨ha, hs, hv, hsus, hr⟩ := h.env
  unfold Machine.envTickStep
  split
  · exact h.envTrigStep
  · split
    · exact h
    · refine Inv.envEvaluated ?_
      split
      · exact h.enterStage (by decide)
      · next hd => exact h.rampTo hs (by decide) hd
    · refine Inv.envEvaluated ?_
      split
      · exact h.enterStage hsus
      · next hd => exact h.rampTo hs hsus hd
    · exact Inv.envEvaluated (h.withEnv ⟨hsus, hs, hv, hsus, hr⟩)
    · split
      · exact h.envComplete
      · next hd => exact (h.rampTo hs (by decide) hd).envEvaluated

/-! ## LFO -/

theorem Inv.lfoOctaves (h : Inv s) : Inv (lfoOctaves s) := by
  unfold Machine.lfoOctaves
  split
  · exact h
  · refine Inv.deriveIncrements (h.withLfoMod ?_)
    exact h.lfoMod

theorem lfoAmpMod_isGain {x d : Int} {k : Nat} (hk : 12 ≤ k) (hx : IsSample x) (hd : IsGain d) :
    IsGain (asr (x * d) k) := by
  have h1 := asr_mono (mul_nonneg hx.1 hd.1) hk
  simp only [IsGain, IsSample] at *
  have h2 := asr_bounds (a := x * d) (lo := 0) (hi := 1023) (k := 12) (by nlinarith) (by norm_num; nlinarith)
  omega

theorem Inv.lfoOutputs (h : Inv s) : Inv (lfoOutputs s) := by
  unfold Machine.lfoOutputs
  have h1 := (h.withLfoMod (x := { s.lfoMod with
    pitch := #v[lfoPitchOut s.params (lfoLevel s) (s.depth .lfoPitch1),
      lfoPitchOut s.params (lfoLevel s) (s.depth .lfoPitch2)]
    cut := asr (lfoLevel s * s.depth .lfoCut) s.params.lfoCutShift }) h.lfoMod).updateFilterCoef
  exact (h1.withLfoMod
    (lfoAmpMod_isGain h.params.lfoAmp h1.lfo.2.2.1 (h1.depth .lfoAmp))).updatePulseWidth.lfoOctaves

theorem Inv.lfoResync (h : Inv s) : Inv (lfoResync s) := by
  obtain ⟨-, -, h3, -, h5⟩ := h.lfo
  exact h.withLfo ⟨by simp, by simp, h3, by simp, h5⟩

theorem syncEighths_le {p : Params} (hp : p.Legal) (m : LfoSync) : syncEighths p m ≤ 16 := by
  cases m
  · exact Nat.zero_le _
  · exact hp.syncEighths 0
  · exact hp.syncEighths 1
  · exact hp.syncEighths 2
  · exact hp.syncEighths 3
  · exact hp.syncEighths 4

theorem Inv.clockLfoSync (h : Inv s) : Inv (clockLfoSync s) := by
  simp only [Machine.clockLfoSync]
  split
  · exact h
  · obtain ⟨h1, h2, h3, h4, h5⟩ := h.lfo
    have := syncEighths_le h.params s.lfo.sync
    split
    · exact { h.lfoResync with }
    · next hlt => exact h.withLfo ⟨h1, h2, h3, by simp at hlt ⊢; omega, h5⟩

theorem uiTick_ok {p : Params} {u : Ui} (hp : p.Legal) (h : UiOk p u) : UiOk p (uiTick p u) := by
  obtain ⟨h1, h2, h3, h4⟩ := h
  have := hp.ui
  refine ⟨?_, ?_, ?_, ?_⟩ <;> dsimp only [uiTick] <;> split <;> omega

theorem freeTarget_bounds (h : Inv s) : 1 ≤ freeTarget s ∧ freeTarget s < 2 ^ 32 := by
  have hr := h.lfo.2.2.2.2.1
  have ht := h.params.ticks
  have := clamp_bounds (lo := s.params.lfoTicksMin) (hi := s.lfo.rate) hr.1 (s.lfo.rate - s.envMod.rate - s.vel.rate)
  unfold freeTarget
  omega

theorem periodUs_le (h : Inv s) : s.clock.periodUs ≤ 31250 := by
  obtain ⟨-, -, -, -, hb, hp, -⟩ := h.clock
  rw [hp, Nat.div_le_iff_le_mul (by omega)]
  omega

theorem syncPulses_lt {p : Params} (hp : p.Legal) (m : LfoSync) :
    31250 * syncPulses p m * p.lfoTickHz < 2 ^ 32 * 600000000 := by
  cases m
  · simp [syncPulses]
  · exact hp.syncPulses 0
  · exact hp.syncPulses 1
  · exact hp.syncPulses 2
  · exact hp.syncPulses 3
  · exact hp.syncPulses 4

/-- The synced target is a 32-bit count (43_lfo R238). -/
theorem syncTarget_bounds (h : Inv s) : 1 ≤ syncTarget s ∧ syncTarget s < 2 ^ 32 := by
  have hs := syncPulses_lt h.params s.lfo.sync
  have hm : s.clock.periodUs * syncPulses s.params s.lfo.sync * s.params.lfoTickHz ≤
      31250 * syncPulses s.params s.lfo.sync * s.params.lfoTickHz :=
    Nat.mul_le_mul_right _ (Nat.mul_le_mul_right _ (periodUs_le h))
  refine ⟨le_max_left _ _, ?_⟩
  simp only [syncTarget, Config.tableLen]
  generalize s.clock.periodUs * syncPulses s.params s.lfo.sync * s.params.lfoTickHz = m at hm
  omega

theorem lfoTarget_bounds (h : Inv s) : 1 ≤ lfoTarget s ∧ lfoTarget s < 2 ^ 32 := by
  unfold lfoTarget
  split
  · exact freeTarget_bounds h
  · exact syncTarget_bounds h

/-! ## Tempo -/

theorem divTable_mem (p : Params) (sel : Nat) : ∃ k : Fin 4, divTable p sel = p.divTable[k] := by
  unfold divTable
  split
  · exact ⟨0, rfl⟩
  · exact ⟨1, rfl⟩
  · exact ⟨2, rfl⟩
  · exact ⟨3, rfl⟩

theorem divTable_pos {p : Params} (hp : p.Legal) (sel : Nat) : 0 < divTable p sel := by
  obtain ⟨k, hk⟩ := divTable_mem p sel
  have := (hp.div k).1
  omega

theorem swing_bound {m w d : Nat} (hw : w ≤ m) : w * (d / 2) / m ≤ d / 2 :=
  Nat.div_le_of_le_mul (Nat.mul_le_mul_right _ hw)

theorem Inv.recomputeSwing (h : Inv s) : Inv (recomputeSwing s) := by
  obtain ⟨h1, h2, h3, -, h5⟩ := h.clock
  exact h.withClock ⟨h1, h2, h3, swing_bound (h.mem.2 s.seq.cur).2.2.2.2.2.2.2.2.1, h5⟩ rfl

theorem OptPulse.none (m : Nat) : OptPulse m Option.none := by intro _ h; cases h

theorem OptPulse.mod {m : Nat} (x : Option Nat) (hm : 0 < m) : OptPulse m (x.map (· % m)) := by
  intro p hp
  cases x with
  | none => cases hp
  | some q => cases hp; exact Nat.mod_lt _ hm

/-- The clock, the transport and the arpeggiator together, where the measure changes. -/
theorem Inv.withMeasure (h : Inv s) {c : Clock} {q : Transport} {a : Arp} (hc : ClockOk s.params c)
    (hq : SeqOk (2 * c.div) (s.mem.seq[q.cur]).patternLength q) (ha : ArpOk s.params (2 * c.div) a) :
    Inv (((s.withClock c).withSeq q).withArp a) := { h with clock := hc, seq := hq, arp := ha }

theorem setDiv_eq (sel : Nat) (s : State) : setDiv sel s =
    ((s.withClock { s.clock with
      div := divTable s.params sel
      pulse := s.clock.pulse % (2 * divTable s.params sel)
      swingOffset := (currentSeq s).swing * (divTable s.params sel / 2) / s.params.swingMax }).withSeq
      { s.seq with pendRel := s.seq.pendRel.map (· % (2 * divTable s.params sel)) }).withArp
      { s.arp with pendRel := s.arp.pendRel.map (· % (2 * divTable s.params sel)) } := rfl

theorem Inv.setDiv (h : Inv s) (sel : Nat) : Inv (setDiv sel s) := by
  have hd := divTable_mem s.params sel
  have hpos : 0 < 2 * divTable s.params sel := by have := divTable_pos h.params sel; omega
  obtain ⟨h1, h2, h3, h4, h5⟩ := h.clock
  have hsw := swing_bound (d := divTable s.params sel) (h.mem.2 s.seq.cur).2.2.2.2.2.2.2.2.1
  obtain ⟨q1, q2, q3⟩ := h.seq
  obtain ⟨a1, a2, a3, a4, a5, a6, a7⟩ := h.arp
  rw [setDiv_eq]
  generalize divTable s.params sel = d at hd hpos hsw
  exact h.withMeasure ⟨Nat.mod_lt _ hpos, h2, hd, hsw, h5⟩ ⟨q1, OptPulse.mod _ hpos, q3⟩
    ⟨a1, a2, a3, a4, a5, OptPulse.mod _ hpos, a7⟩

theorem Inv.setTempo (h : Inv s) {b : Nat} (hb : 20 ≤ b ∧ b ≤ 320) : Inv (setTempo b s) := by
  obtain ⟨h1, h2, h3, h4, -, -, h7⟩ := h.clock
  exact h.withClock ⟨h1, h2, h3, h4, hb, rfl, h7⟩ rfl

theorem Inv.extLost (h : Inv s) : Inv (extLost s) := by
  have h1 := h.withClock (x := { s.clock with receivingClock := false }) h.clock rfl
  obtain ⟨-, e2, -⟩ := h.ext
  exact h1.withExt ⟨by simp, e2, by simp⟩

theorem Inv.publishBpm (h : Inv s) : Inv (publishBpm s) := by
  simp only [Machine.publishBpm]
  split
  · exact h.setTempo (clampNat_bounds (by decide) _)
  · exact h

theorem Inv.bpmEstimate (h : Inv s) (iv : Nat) : Inv (bpmEstimate iv s) := by
  unfold Machine.bpmEstimate
  split
  · exact h
  · refine Inv.publishBpm ?_
    obtain ⟨e1, e2, e3⟩ := h.ext
    refine h.withExt ⟨e1, fun i => ?_, ?_⟩
    · simp only [pushEstimate, Fin.getElem_fin, Vector.getElem_set]
      split
      · exact (clampNat_bounds (by decide) _).2
      · exact e2 i
    · exact Nat.min_le_left _ _

/-! ## Voices -/

theorem Inv.setVoice (h : Inv s) {v : Fin 4} {x : Voice} (hx : VoiceOk s.params x)
    (hk : x.key = none ∨ ∀ u : Fin 4, u ≠ v → x.key ≠ s.voices[u].key) : Inv (s.setVoice v x) := by
  refine h.withVoices (fun u => ?_) (fun i j hij => ?_)
  · simp only [Fin.getElem_fin, Vector.getElem_set]
    split
    · exact hx
    · exact h.voices u
  · simp only [Fin.getElem_fin, Vector.getElem_set]
    have hkeys := h.keys i j hij
    split
    · next hi =>
      have hi : v = i := Fin.ext hi
      subst hi
      rw [if_neg (fun e => hij (Fin.ext e))]
      rcases hk with e | e
      · exact .inl e
      · exact .inr (e j (Ne.symm hij))
    · split
      · next hj =>
        have hj : v = j := Fin.ext hj
        subst hj
        rcases hk with e | e
        · by_cases hn : s.voices[i].key = none
          · exact .inl hn
          · refine .inr ?_
            rw [e]; exact hn
        · exact .inr (Ne.symm (e i hij))
      · exact hkeys

/-- Replacing a voice's record by one with the same key. -/
theorem Inv.setVoice_sameKey (h : Inv s) {v : Fin 4} {x : Voice} (hn : OptNote s.params x.note)
    (hk : x.key = s.voices[v].key) : Inv (s.setVoice v x) := by
  refine h.setVoice ⟨hn, hk ▸ (h.voices v).2⟩ ?_
  rw [hk]
  by_cases e : s.voices[v].key = none
  · exact .inl e
  · exact .inr fun u hu => (h.keys v u (Ne.symm hu)).resolve_left e

theorem Inv.markMute (h : Inv s) (v : Fin 4) : Inv (markMute v s) := h.setVoice_sameKey (h.voices v).1 rfl

theorem Inv.silence (h : Inv s) (v : Fin 4) : Inv (silence v s) := h.setVoice_sameKey (h.voices v).1 rfl

theorem Inv.setKey (h : Inv s) (v : Fin 4) {x : Option Note} (hx : OptNote s.params x)
    (hk : x = none ∨ ∀ u : Fin 4, u ≠ v → x ≠ s.voices[u].key) : Inv (setKey v x s) :=
  h.setVoice ⟨(h.voices v).1, hx⟩ hk

theorem Inv.setOsc (h : Inv s) (o : Fin 8) {x : Osc} (hx : OscOk s.params x) : Inv (s.setOsc o x) := by
  refine h.withOsc fun p => ?_
  simp only [Fin.getElem_fin, Vector.getElem_set]
  split
  · exact hx
  · exact h.osc p

theorem startGlide_ok {p : Params} {x : Osc} (h : OscOk p x) : OscOk p (startGlide x) := ⟨h.1, h.2.1, h.2.2.1, h.2.2.1⟩

theorem Inv.setNote (h : Inv s) (v : Fin 4) {x : Option Note} (hx : OptNote s.params x) : Inv (setNote v x s) := by
  cases x with
  | none =>
    refine Inv.deriveIncrements (h.setVoice_sameKey ?_ ?_)
    · intro _ hn; cases hn
    · rfl
  | some n =>
    have h1 := h.setOsc (oscOf 0 v) (startGlide_ok (h.osc (oscOf 0 v)))
    have h2 := h1.setOsc (oscOf 1 v) (startGlide_ok (h1.osc (oscOf 1 v)))
    refine Inv.deriveIncrements (h2.setVoice_sameKey ?_ ?_)
    · exact hx
    · rfl

theorem Inv.forVoices {f : Fin 4 → State → State} (hf : ∀ v s, Inv s → Inv (f v s)) (h : Inv s) :
    Inv (forVoices f s) := hf _ _ (hf _ _ (hf _ _ (hf _ _ h)))

theorem Inv.updateUnison (h : Inv s) : Inv (updateUnison s) := by
  obtain ⟨h1, h2, h3, h4⟩ := h.alloc
  refine h.withAlloc ⟨h1, h2, fun v => ?_, h4⟩
  simp only [Fin.getElem_fin, Vector.getElem_ofFn, unisonOffset] at *
  have hv := v.isLt
  split
  · constructor
    · exact mul_nonneg (by omega) h2.1
    · have : (v.val : Int) ≤ 3 := by omega
      nlinarith
  · omega

theorem Inv.allocReleaseAll (h : Inv s) : Inv (allocReleaseAll s) := by
  simp only [Machine.allocReleaseAll]
  have h1 := h.mapVoices (f := fun x => { x with key := none }) (fun _ => .inl rfl) (fun _ => .inr rfl)
    (.inr fun _ => rfl)
  obtain ⟨b1, b2, b3, b4, -⟩ := h1.alloc
  have h2 := h1.withAlloc (x := { s.alloc with held := [] }) ⟨b1, b2, b3, b4, by simp, by simp, by simp⟩
  split
  · exact h2.envReleaseNow
  · exact h2

/-! ## Sequencer -/

theorem Inv.seqRelease (h : Inv s) : Inv (seqRelease s) := by
  simp only [Machine.seqRelease]
  obtain ⟨q1, q2, q3⟩ := h.seq
  have h1 := (h.withSeq (x := { s.seq with pendRel := none }) ⟨q1, OptPulse.none _, q3⟩).envReleaseNow
  split
  · exact h1
  · obtain ⟨o1, o2, o3, o4, o5, o6⟩ := h1.outbox
    refine h1.withOutbox ⟨o1, o2, o3, ?_, o5, ?_⟩
    · intro b hb v; cases hb; exact o6 v
    · intro v n hn
      simp at hn

theorem Inv.seqReleasePending (h : Inv s) : Inv (seqReleasePending s) := by
  unfold Machine.seqReleasePending; split
  · exact h.seqRelease
  · exact h

theorem Inv.applySeqTempo (h : Inv s) : Inv (applySeqTempo s) := by
  simp only [Machine.applySeqTempo]
  have h1 := h.setDiv (currentSeq s).divSelection
  split
  · exact h1
  · exact h1.setTempo (h1.mem.2 _).2.2.2.2.2.2.2.2.2

theorem patternLength_bounds (h : Inv s) (q : Fin 8) :
    1 ≤ s.mem.seq[q].patternLength ∧ s.mem.seq[q].patternLength ≤ 16 := (h.mem.2 q).2.2.2.2.2.2.1

theorem Inv.startSeq (h : Inv s) : Inv (startSeq s) := by
  unfold Machine.startSeq
  obtain ⟨q1, q2, -⟩ := h.seq
  have h1 := h.withSeq (x := { s.seq with running := true, step := 0, dir := 1, mag := 1 })
    ⟨(patternLength_bounds h _).1, q2, .inl rfl, by simp⟩
  obtain ⟨c1, c2, c3, c4⟩ := h.clock
  exact (h1.withClock (x := { s.clock with pulse := 0 }) ⟨by dsimp only; omega, c2, c3, c4⟩ rfl).applySeqTempo

theorem Inv.stopSeq (h : Inv s) : Inv (stopSeq s) :=
  (h.withSeq (x := { s.seq with running := false }) h.seq).seqReleasePending

/-- Selecting a sequence is always legal. -/
theorem Inv.withSel (h : Inv s) (q : Fin 8) : Inv (s.withSeq { s.seq with sel := q }) := h.withSeq h.seq

theorem Inv.cueNextSeq (h : Inv s) : Inv (cueNextSeq s) := by
  unfold Machine.cueNextSeq
  split
  · exact h
  · exact h.withSel _
  · exact h.withSel _
  · exact h.withSel _
  · exact (h.draw 0 6).withSel _

theorem Inv.switchIfCued (h : Inv s) : Inv (switchIfCued s) := by
  unfold Machine.switchIfCued
  split
  · next hc =>
    obtain ⟨q1, q2, q3⟩ := h.seq
    refine Inv.cueNextSeq (Inv.applySeqTempo (h.withSeq ⟨?_, q2, q3⟩))
    have := (patternLength_bounds h s.seq.sel).1
    have h0 : s.seq.step = 0 := hc.1
    show s.seq.step < s.mem.seq[s.seq.sel].patternLength
    rw [h0]
    exact this
  · exact h

theorem Inv.drawMagnitude (h : Inv s) {len : Nat} (hl : len ≤ 16) : Inv (drawMagnitude len s) := by
  obtain ⟨q1, q2, q3, -⟩ := h.seq
  have hm : (1 : Int) ≤ max 1 ((len : Int) - 1) := by omega
  have := draw_bounds hm s
  have h2 : max 1 ((len : Int) - 1) ≤ 15 := by omega
  exact (h.draw 1 (max 1 ((len : Int) - 1))).withSeq ⟨q1, q2, q3, this.1, this.2.trans h2⟩

theorem Inv.stepIncrement (h : Inv s) {len t : Nat} (hl : len ≤ 16) : Inv (stepIncrement len t s).2 := by
  unfold Machine.stepIncrement
  obtain ⟨q1, q2, q3, q4⟩ := h.seq
  split
  · exact h
  · exact h
  · refine h.withSeq ⟨q1, q2, ?_, q4⟩
    dsimp only
    split
    · exact .inl rfl
    · split
      · exact .inr rfl
      · exact q3
  · dsimp only
    split
    · exact h.drawMagnitude hl
    · exact h
  · refine (h.draw 0 1).withSeq ⟨q1, q2, ?_, q4⟩
    dsimp only
    split
    · exact .inr rfl
    · exact .inl rfl
  · exact h.drawMagnitude hl

theorem measure_pos (h : Inv s) : 0 < measure s := by
  have := h.clock.1
  unfold measure; omega

theorem Inv.scheduleSeqRelease (h : Inv s) : Inv (scheduleSeqRelease s) := by
  obtain ⟨q1, q2, q3⟩ := h.seq
  refine h.withSeq ⟨q1, ?_, q3⟩
  intro p hp; cases hp
  exact Nat.mod_lt _ (measure_pos h)

theorem stepNote_ok {p : Params} (hp : p.Legal) (S : Sequence) (t : Fin 16) (v : Fin 4) :
    OptNote p (stepNote p S t v) := by
  intro n hn
  unfold stepNote at hn
  obtain ⟨m, -, rfl⟩ := Option.map_eq_some_iff.1 hn
  exact clampNote_isNote hp _

theorem Inv.playVoice (h : Inv s) (S : Sequence) (t : Fin 16) (v : Fin 4) : Inv (playVoice S t v s) := by
  have hx := stepNote_ok h.params S t v
  have h1 := h.setNote v hx
  have key : ∀ x, Inv x → x.params = s.params →
      Inv (x.withOutbox { x.outbox with seqNotes := x.outbox.seqNotes.set v (stepNote s.params S t v) }) := by
    intro x h2 hp
    rw [← hp] at hx ⊢
    obtain ⟨o1, o2, o3, o4, o5, o6⟩ := h2.outbox
    refine h2.withOutbox ⟨o1, o2, o3, o4, o5, fun u => ?_⟩
    simp only [Fin.getElem_fin, Vector.getElem_set]
    split
    · exact hx
    · exact o6 u
  exact key _ (h1.ite (h1.markMute v)) (by split <;> simp)

theorem Inv.stepPlay (h : Inv s) (t nxt : Fin 16) : Inv (stepPlay t nxt s) := by
  have hvel : IsVel (currentSeq s).vel[t] := (h.mem.2 s.seq.cur).2.1 t
  have h1 : Inv (Machine.forVoices (Machine.playVoice (currentSeq s) t) s) :=
    Inv.forVoices (fun v s hs => hs.playVoice _ _ v) h
  have key : ∀ x, Inv x → Inv (if x.outbox.seqNotes = Vector.replicate 4 none then x
      else (Machine.envTriggerWith (currentSeq s).vel[t] x).withOutbox
        { (Machine.envTriggerWith (currentSeq s).vel[t] x).outbox with
          seqOn := some { notes := (Machine.envTriggerWith (currentSeq s).vel[t] x).outbox.seqNotes
                          vel := (currentSeq s).vel[t] } }) := by
    intro x hx
    refine hx.ite ?_
    have h3 := hx.envTriggerWith hvel
    obtain ⟨o1, o2, o3, o4, o5, o6⟩ := h3.outbox
    refine h3.withOutbox ⟨o1, o2, ?_, o4, o5, o6⟩
    intro b hb; cases hb
    exact ⟨o6, hvel⟩
  refine key _ (Inv.ite ?_ h1.scheduleSeqRelease)
  obtain ⟨q1, q2, q3⟩ := h1.seq
  exact h1.withSeq ⟨q1, OptPulse.none _, q3⟩

theorem Inv.stepTied (h : Inv s) (nxt : Fin 16) : Inv (stepTied nxt s) := by
  unfold Machine.stepTied; split
  · exact h
  · exact h.scheduleSeqRelease

theorem Inv.stepMuted (h : Inv s) : Inv (stepMuted s) := by
  obtain ⟨q1, q2, q3⟩ := h.seq
  refine h.withSeq ⟨q1, ?_, q3⟩
  intro p hp
  obtain ⟨q, -, rfl⟩ := Option.map_eq_some_iff.1 hp
  exact Nat.mod_lt _ (measure_pos h)

theorem Inv.playStep (h : Inv s) (t nxt : Fin 16) : Inv (playStep t nxt s) := by
  unfold Machine.playStep; split
  · exact h.stepMuted
  · split
    · exact h.stepTied nxt
    · exact h.stepPlay t nxt

/-- A step index exists exactly for a pattern of 1 to 16 steps, and lies inside it (20_memory R79). -/
theorem stepIndex_of_bounds {len : Nat} (h : 1 ≤ len ∧ len ≤ 16) (i : Int) :
    ∃ t, stepIndex len i = some t ∧ t.val < len ∧ (t.val : Int) = i % (len : Int) := by
  have h0 := Int.emod_nonneg i (b := (len : Int)) (by omega)
  have h1 := Int.emod_lt_of_pos i (b := (len : Int)) (by omega)
  refine ⟨⟨(i % (len : Int)).toNat, by omega⟩, ?_, ?_, ?_⟩
  · unfold stepIndex; rw [dif_pos ⟨by omega, h.2⟩]
  · show (i % (len : Int)).toNat < len; omega
  · show (((i % (len : Int)).toNat : Nat) : Int) = _; omega

/-- The frame of `stepIncrement`. -/
theorem stepIncrement_frame (len t : Nat) (s : State) :
    (stepIncrement len t s).2 =
      (s.withSeq (stepIncrement len t s).2.seq).withInputs (stepIncrement len t s).2.inputs := by
  unfold stepIncrement
  split <;> try rfl
  split <;> rfl

theorem stepIncrement_cur (len t : Nat) (s : State) : (stepIncrement len t s).2.seq.cur = s.seq.cur := by
  unfold stepIncrement
  split <;> try rfl
  split <;> rfl

@[simp] theorem scheduleSeqRelease_cur (s : State) : (scheduleSeqRelease s).seq.cur = s.seq.cur := rfl

@[simp] theorem forVoices_playVoice_seq (S : Sequence) (t : Fin 16) (s : State) :
    (forVoices (playVoice S t) s).seq = s.seq := by simp [forVoices]

@[simp] theorem playStep_cur (t nxt : Fin 16) (s : State) : (playStep t nxt s).seq.cur = s.seq.cur := by
  simp only [playStep, stepMuted, stepTied, stepPlay]
  repeat' split
  all_goals simp

/-- In a legal state SeqNextStep completes, in a legal state. -/
theorem Inv.seqNextStep (h : Inv s) : ∃ t, seqNextStep s = some t ∧ Inv t := by
  have h1 := h.switchIfCued
  have e0 : Machine.seqNextStep s = do
      let s := Machine.switchIfCued s
      let len := (currentSeq s).patternLength
      let t ← stepIndex len s.seq.step
      let (incr, s) := Machine.stepIncrement len t.val s
      let nxt ← stepIndex len (t.val + incr)
      let s := Machine.playStep t nxt s
      return s.withSeq { s.seq with step := nxt.val } := rfl
  rw [e0]
  generalize Machine.switchIfCued s = s1 at h1
  have hl := patternLength_bounds h1 s1.seq.cur
  have hcur : currentSeq s1 = s1.mem.seq[s1.seq.cur] := rfl
  dsimp only
  rw [hcur]
  generalize hlen : s1.mem.seq[s1.seq.cur].patternLength = len at hl
  obtain ⟨t, ht, -, -⟩ := stepIndex_of_bounds hl s1.seq.step
  have h2 := h1.stepIncrement (len := len) (t := t.val) hl.2
  obtain ⟨nxt, hn, hlt, -⟩ := stepIndex_of_bounds hl (t.val + (Machine.stepIncrement len t.val s1).1)
  have hm : (Machine.stepIncrement len t.val s1).2.mem = s1.mem := by rw [stepIncrement_frame]; simp
  have hc := stepIncrement_cur len t.val s1
  rw [ht, Option.bind_eq_bind, Option.bind_some]
  generalize Machine.stepIncrement len t.val s1 = r at h2 hn hm hc
  rw [hn, Option.bind_some]
  refine ⟨_, rfl, ?_⟩
  have h3 := h2.playStep t nxt
  obtain ⟨q1, q2, q3⟩ := h3.seq
  refine h3.withSeq ⟨?_, q2, q3⟩
  show nxt.val < _
  have hm' : (Machine.playStep t nxt r.2).mem = s1.mem := by simp [hm]
  simp only [hm', playStep_cur, hc, hlen]
  exact hlt

theorem Inv.swingAtZero (h : Inv s) : Inv (swingAtZero s) := by
  unfold Machine.swingAtZero; split
  · exact h.recomputeSwing
  · exact h

theorem Inv.seqDispatch (h : Inv s) : ∃ t, seqDispatch s = some t ∧ Inv t := by
  have h1 := h.swingAtZero
  have h2 : Inv (if (Machine.swingAtZero s).seq.pendRel = some (Machine.swingAtZero s).clock.pulse then
      Machine.seqRelease (Machine.swingAtZero s) else Machine.swingAtZero s) := h1.seqRelease.ite h1
  unfold Machine.seqDispatch
  extract_lets a b
  change Inv b at h2
  split
  · exact h2.seqNextStep
  · exact ⟨_, rfl, h2⟩

end Sys2Proof.Machine
end

