-- ==== Sys2Proof/Laws/InvariantPlay.lean ====
section
/-! SUPPORT. The invariants of 10_state R55, the shared operations of the arpeggiator (48_arpeggiator) and of the note
policies (49_voice_allocator): each keeps a legal state legal. -/

namespace Sys2Proof.Machine

variable {s : State}

/-! ## The arpeggiator -/

theorem sortNotes_ok {p : Params} {source : ArpSource} {dir : ArpDir} {raw old : List Note}
    (hr : raw.length ≤ 10 ∧ ∀ n ∈ raw, IsNote p n) (ho : old.length ≤ 10 ∧ ∀ n ∈ old, IsNote p n) :
    (sortNotes source dir raw old).length ≤ 10 ∧ ∀ n ∈ sortNotes source dir raw old, IsNote p n := by
  cases source <;> cases dir <;> simp only [sortNotes]
  · exact hr
  · simpa using hr
  · simpa using hr
  · exact ho

theorem freshArp_ok {p : Params} {m : Nat} {a : Arp} (h : ArpOk p m a) : ArpOk p m (freshArp a) := by
  obtain ⟨a1, a2, a3, -, -, a6⟩ := h
  exact ⟨a1, a2, a3, by simp [freshArp], by simp [freshArp], a6⟩

theorem Inv.arpClear (h : Inv s) : Inv (arpClear s) := by
  obtain ⟨-, -, -, a4, a5, a6⟩ := h.arp
  refine h.withArp (freshArp_ok ⟨⟨?_, ?_, ?_⟩, ⟨?_, ?_⟩, ?_, a4, a5, a6⟩) <;> simp

theorem Inv.arpSort (h : Inv s) : Inv (arpSort s) := by
  obtain ⟨a1, a2, a3⟩ := h.arp
  exact h.withArp ⟨a1, sortNotes_ok ⟨a1.1, a1.2.1⟩ a2, a3⟩

/-- Relisting makes the tracked length right, whatever it was. -/
theorem Inv.arpRelist (h : Inv s) {raw : List Note} (hr : raw.length ≤ 10 ∧ (∀ n ∈ raw, IsNote s.params n) ∧ raw.Nodup) :
    Inv (arpRelist raw s) := by
  obtain ⟨-, a2, -, a4⟩ := h.arp
  have e : Machine.arpRelist raw s = s.withArp { s.arp with
    raw := raw, sorted := sortNotes s.arp.source s.arp.dir raw s.arp.sorted, len := raw.length } := rfl
  rw [e]
  exact h.withArp ⟨hr, sortNotes_ok ⟨hr.1, hr.2.1⟩ a2, rfl, a4⟩

theorem Inv.arpVel (h : Inv s) {vel : Int} (hv : IsVel vel) : Inv (s.withArp { s.arp with vel := vel }) := by
  obtain ⟨a1, a2, a3, a4, a5, a6, a7, -, a9⟩ := h.arp
  exact h.withArp ⟨a1, a2, a3, a4, a5, a6, a7, hv, a9⟩

theorem Inv.arpNoteOn (h : Inv s) {k : Note} {vel : Int} (hk : IsNote s.params k) (hv : IsVel vel) :
    Inv (arpNoteOn k vel s) := by
  have hraw := h.arp.1
  have key : ∀ x : State, Inv x → x.params = s.params → x.arp.raw = s.arp.raw → k ∉ s.arp.raw → s.arp.raw.length ≠ 10 →
      Inv (Machine.arpRelist ((x.withArp { x.arp with vel := vel }).arp.raw ++ [k])
        (x.withArp { x.arp with vel := vel })) := by
    intro x hx hp e hn hl
    rw [← hp] at hk hraw
    refine (hx.arpVel hv).arpRelist ?_
    simp only [State.withArp_arp, e]
    refine ⟨?_, ?_, ?_⟩
    · have := hraw.1; simp; omega
    · intro n hn'
      rcases List.mem_append.1 hn' with hm | hm
      · exact hraw.2.1 n hm
      · rw [List.mem_singleton.1 hm]; exact hk
    · refine List.nodup_append.2 ⟨hraw.2.2, List.nodup_singleton k, ?_⟩
      intro a ha b hb e
      rw [List.mem_singleton.1 hb] at e
      exact hn (e ▸ ha)
  unfold Machine.arpNoteOn
  split
  · exact h.arpVel hv
  · next hn =>
    split
    · exact h
    · next hl =>
      extract_lets a b
      have ha : Inv a ∧ a.params = s.params ∧ a.arp.raw = s.arp.raw := by
        simp only [a]
        split
        · exact ⟨h.withArp (freshArp_ok h.arp), rfl, rfl⟩
        · exact ⟨h, rfl, rfl⟩
      exact key a ha.1 ha.2.1 ha.2.2 hn hl

theorem Inv.arpNoteOff (h : Inv s) (k : Note) : Inv (arpNoteOff k s) := by
  obtain ⟨r1, r2, r3⟩ := h.arp.1
  refine (h.arpRelist ⟨?_, fun n hn => r2 n (List.mem_of_mem_erase hn), r3.erase k⟩).ite h
  exact (List.length_erase_le).trans r1

theorem Inv.arpRelease (h : Inv s) : Inv (arpRelease s) := by
  obtain ⟨a1, a2, a3, a4, a5, -, a7⟩ := h.arp
  have h1 := (h.withArp (x := { s.arp with pendRel := none }) ⟨a1, a2, a3, a4, a5, OptPulse.none _, a7⟩).envReleaseNow
  simp only [Machine.arpRelease]
  generalize Machine.envReleaseNow _ = x at h1
  split
  · next n hn =>
    obtain ⟨o1, -, o3⟩ := h1.outbox
    obtain ⟨b1, b2, b3, b4, b5, b6, b7, b8⟩ := h1.arp
    have hn' : OptNote x.params (some n) := hn ▸ b7
    refine Inv.withArp (h1.withOutbox ⟨o1, hn', o3⟩) ⟨b1, b2, b3, b4, b5, b6, ?_, b8⟩
    intro _ hn; cases hn
  · exact h1

theorem Inv.arpReleasePending (h : Inv s) : Inv (arpReleasePending s) := h.arpRelease.ite h

theorem twoForwardOneBack_pos {n : Nat} {a : Arp} (hn : 0 < n ∧ n ≤ 10) (_h : a.pos ≤ 9) :
    (twoForwardOneBack n a).pos ≤ 9 := by
  unfold twoForwardOneBack
  split
  · simp
  · split
    · show min a.pos (n - 1) - 1 ≤ 9; omega
    · show min (min a.pos (n - 1) + 2) (n - 1) ≤ 9; omega

theorem twoForwardOneBack_frame (n : Nat) (a : Arp) : twoForwardOneBack n a =
    { a with
      pos := (twoForwardOneBack n a).pos, fresh := (twoForwardOneBack n a).fresh
      back := (twoForwardOneBack n a).back, restart := (twoForwardOneBack n a).restart } := by
  unfold twoForwardOneBack
  split
  · rfl
  · split <;> rfl

theorem Inv.arpPos (h : Inv s) {p : Nat} (hp : p ≤ 9) : Inv (s.withArp { s.arp with pos := p }) := by
  obtain ⟨a1, a2, a3, -, a5⟩ := h.arp
  exact h.withArp ⟨a1, a2, a3, hp, a5⟩

theorem Inv.arpAdvance (h : Inv s) {n : Nat} (hn : 0 < n ∧ n ≤ 10) : Inv (arpAdvance n s) := by
  have hm : ∀ p : Nat, p % n ≤ 9 := fun p => by have := Nat.mod_lt p hn.1; omega
  unfold Machine.arpAdvance
  split
  · exact h.arpPos (hm _)
  · exact h.arpPos (hm _)
  · exact h.arpPos (hm _)
  · have hb := (draw_bounds (lo := 0) (hi := (n : Int) - 1) (by omega) s).2
    have hp : (Machine.draw 0 ((n : Int) - 1) s).1.toNat ≤ 9 := by omega
    exact (h.draw 0 ((n : Int) - 1)).arpPos hp
  · obtain ⟨a1, a2, a3, a4, a5⟩ := h.arp
    have hp := twoForwardOneBack_pos hn a4
    rw [twoForwardOneBack_frame]
    exact h.withArp ⟨a1, a2, a3, hp, a5⟩

theorem IsNote.opt {p : Params} {n : Note} (h : IsNote p n) : OptNote p (some n) := by
  intro m hm; cases hm; exact h

theorem OptNote.none {p : Params} : OptNote p Option.none := by intro m hm; cases hm

theorem Inv.assignUnison (h : Inv s) {k : Note} (hk : IsNote s.params k) (v : Fin 4) : Inv (assignUnison k v s) :=
  (h.setNote v hk.opt).ite ((h.setNote v OptNote.none).markMute v)

/-- A loop over the voices that keeps the configuration. -/
theorem Inv.forVoices_params {f : Fin 4 → State → State} (h : Inv s)
    (hf : ∀ v t, Inv t → t.params = s.params → Inv (f v t) ∧ (f v t).params = s.params) :
    Inv (Machine.forVoices f s) := by
  have h0 := hf 0 s h rfl
  have h1 := hf 1 _ h0.1 h0.2
  have h2 := hf 2 _ h1.1 h1.2
  exact (hf 3 _ h2.1 h2.2).1

/-- Every voice is given the note or `none`, in turn (48_arpeggiator R355, 49_voice_allocator R387). -/
theorem Inv.assignAll (h : Inv s) {k : Note} (hk : IsNote s.params k) :
    Inv (Machine.forVoices (Machine.assignUnison k) s) :=
  h.forVoices_params fun v t ht hp =>
    ⟨ht.assignUnison (by rw [hp]; exact hk) v, by simp [hp]⟩

theorem Inv.arpAssign (h : Inv s) {m : Note} (hm : IsNote s.params m) : Inv (arpAssign m s) :=
  (h.assignAll hm).ite (h.setNote 0 hm.opt)

theorem Inv.arpPlay (h : Inv s) {m : Note} (hm : IsNote s.params m) : Inv (arpPlay m s) := by
  have h1 := h.arpAssign hm
  have hp : (Machine.arpAssign m s).params = s.params := by simp
  rw [← hp] at hm
  generalize hx : Machine.arpAssign m s = x at h1 hm
  obtain ⟨o1, o2, o3⟩ := h1.outbox
  obtain ⟨a1, a2, a3, a4, a5, a6, a7, a8, a9⟩ := h1.arp
  have h2 : Inv (x.withOutbox { x.outbox with
      arpOff := if x.arp.note.isSome then x.arp.note else x.outbox.arpOff, arpOn := some (m, x.arp.vel) }) := by
    refine h1.withOutbox ⟨?_, ?_, o3⟩
    · intro p hp; cases hp; exact ⟨hm, a8⟩
    · dsimp only
      split
      · exact a7
      · exact o2
  have e : Machine.arpPlay m s =
      (let s := x.withOutbox { x.outbox with
        arpOff := if x.arp.note.isSome then x.arp.note else x.outbox.arpOff, arpOn := some (m, x.arp.vel) }
      let s := Machine.envTriggerWith s.arp.vel (s.withArp { s.arp with note := some m })
      s.withArp { s.arp with pendRel := some ((s.clock.pulse + s.arp.dur) % measure s) }) := by
    rw [← hx]; rfl
  rw [e]
  generalize hy : x.withOutbox _ = y at h2
  rw [show x.params = y.params by rw [← hy]; rfl] at hm
  have h3 : Inv (y.withArp { y.arp with note := some m }) := by
    obtain ⟨a1, a2, a3, a4, a5, a6, -, a8⟩ := h2.arp
    exact h2.withArp ⟨a1, a2, a3, a4, a5, a6, hm.opt, a8⟩
  have h4 := h3.envTriggerWith (vel := y.arp.vel) h2.arp.2.2.2.2.2.2.2.1
  dsimp only
  generalize Machine.envTriggerWith y.arp.vel _ = z at h4
  obtain ⟨a1, a2, a3, a4, a5, -, a7⟩ := h4.arp
  refine h4.withArp ⟨a1, a2, a3, a4, a5, ?_, a7⟩
  intro p hp; cases hp
  exact Nat.mod_lt _ (measure_pos h4)

theorem arpOctaveStep_ok {p : Params} {m : Nat} {a : Arp} (h : ArpOk p m a) : ArpOk p m (arpOctaveStep a) := by
  unfold arpOctaveStep
  split
  · obtain ⟨a1, a2, a3, a4, -, a6⟩ := h
    refine ⟨a1, a2, a3, a4, ?_, a6⟩
    exact Nat.lt_succ_iff.1 (Nat.mod_lt _ (Nat.succ_pos _))
  · exact h

theorem Inv.arpStep (h : Inv s) (hr : s.arp.raw ≠ []) : Inv (arpStep s) := by
  have hn : 0 < s.arp.raw.length ∧ s.arp.raw.length ≤ 10 := ⟨List.length_pos_of_ne_nil hr, h.arp.1.1⟩
  have h1 := (h.withArp (arpOctaveStep_ok h.arp)).arpAdvance hn
  unfold Machine.arpStep
  extract_lets x
  change Inv x at h1
  split
  · exact h1.arpPlay (clampNote_isNote h1.params _)
  · exact h1

theorem Inv.arpDispatch (h : Inv s) : Inv (arpDispatch s) := by
  have h1 := h.swingAtZero
  have h2 : Inv (if (Machine.swingAtZero s).arp.pendRel = some (Machine.swingAtZero s).clock.pulse then
      Machine.arpRelease (Machine.swingAtZero s) else Machine.swingAtZero s) := h1.arpRelease.ite h1
  unfold Machine.arpDispatch
  extract_lets a b
  change Inv b at h2
  split
  · next hc =>
    simp only [Bool.and_eq_true, decide_eq_true_eq] at hc
    exact h2.arpStep hc.2
  · exact h2

/-! ## Paraphonic keys -/

theorem Inv.markOthers (h : Inv s) (v : Fin 4) : Inv (markOthers v s) :=
  Inv.forVoices (fun u _ hs => hs.ite (hs.markMute u)) h

/-- A key that VoiceOfKey does not find is owned by no voice. -/
theorem voiceOfKey_none {k : Note} (h : voiceOfKey k s = none) (u : Fin 4) : s.voices[u].key ≠ some k := by
  unfold voiceOfKey at h
  split_ifs at h with h0 h1 h2 h3
  fin_cases u
  · exact h0
  · exact h1
  · exact h2
  · exact h3

theorem Inv.paraKeyOn (h : Inv s) {k : Note} {vel : Int} (hk : IsNote s.params k) (hv : IsVel vel) :
    Inv (paraKeyOn k vel s) := by
  unfold Machine.paraKeyOn
  split
  · exact (h.setNote _ hk.opt).envTriggerWith hv
  · next hn =>
    split
    · exact h
    · next v _ =>
      have h1 := (h.setKey v hk.opt (.inr fun u _ => (voiceOfKey_none hn u).symm)).setNote v hk.opt
      exact ((h1.markOthers v).ite h1).envTriggerWith hv

theorem Inv.paraKeyOff (h : Inv s) (k : Note) : Inv (paraKeyOff k s) := by
  unfold Machine.paraKeyOff
  split
  · exact h
  · next v _ =>
    have h1 := h.setKey v OptNote.none (.inl rfl)
    exact ((h1.setNote v OptNote.none).silence v).ite h1.envReleaseNow

/-! ## Mono keys -/

theorem pressHeld_ok {p : Params} {c : Nat} {k : Note} {l : List Note} (hc : 1 ≤ c) (hk : IsNote p k)
    (h : l.length ≤ c ∧ (∀ n ∈ l, IsNote p n) ∧ l.Nodup) :
    (pressHeld c k l).length ≤ c ∧ (∀ n ∈ pressHeld c k l, IsNote p n) ∧ (pressHeld c k l).Nodup := by
  obtain ⟨h1, h2, h3⟩ := h
  have e1 : (l.erase k).length ≤ c := (List.length_erase_le).trans h1
  have e2 : ∀ n ∈ l.erase k, IsNote p n := fun n hn => h2 n (List.mem_of_mem_erase hn)
  have e3 := h3.erase k
  have e4 : k ∉ l.erase k := h3.not_mem_erase
  have key : ∀ t : List Note, t.length + 1 ≤ c → t.Sublist (l.erase k) →
      (t ++ [k]).length ≤ c ∧ (∀ n ∈ t ++ [k], IsNote p n) ∧ (t ++ [k]).Nodup := by
    intro t ht hs
    refine ⟨by simp; omega, ?_, ?_⟩
    · intro n hn
      rcases List.mem_append.1 hn with hm | hm
      · exact e2 n (hs.subset hm)
      · rw [List.mem_singleton.1 hm]; exact hk
    · refine List.nodup_append.2 ⟨e3.sublist hs, List.nodup_singleton k, ?_⟩
      intro a ha b hb e
      rw [List.mem_singleton.1 hb] at e
      exact e4 (e ▸ hs.subset ha)
  simp only [pressHeld]
  split
  · next hl => exact key _ (by rw [List.length_tail, hl]; omega) (List.tail_sublist _)
  · next hl =>
    exact key _ (by omega) (List.Sublist.refl _)

/-- The winner is a held key (49_voice_allocator R386). -/
theorem winner_mem {m : VoiceMode} {l : List Note} {w : Note} (h : winner m l = some w) : w ∈ l := by
  cases m with
  | paraphonic => cases h
  | monoHighest => exact List.max?_mem h
  | monoLowest => exact List.min?_mem h
  | monoLast => exact List.mem_of_getLast? h

theorem Inv.withHeld (h : Inv s) {l : List Note} (hl : l.length ≤ s.params.heldCap ∧ (∀ n ∈ l, IsNote s.params n) ∧ l.Nodup) :
    Inv (s.withAlloc { s.alloc with held := l }) := by
  obtain ⟨b1, b2, b3, b4, -⟩ := h.alloc
  exact h.withAlloc ⟨b1, b2, b3, b4, hl⟩

theorem Inv.monoAssign (h : Inv s) {k : Note} (hk : IsNote s.params k) : Inv (monoAssign k s) := by
  have h1 := h.mapVoices (f := fun x => { x with key := none }) (fun _ => .inl rfl) (fun _ => .inr rfl)
    (.inr fun _ => rfl)
  refine Inv.assignAll (h1.setKey 0 hk.opt (.inr fun u _ => ?_)) hk
  simp [State.mapVoices]

theorem Inv.monoKeyOn (h : Inv s) {k : Note} {vel : Int} (hk : IsNote s.params k) (hv : IsVel vel) :
    Inv (monoKeyOn k vel s) := by
  have h1 := h.withHeld (pressHeld_ok h.params.heldCap hk h.alloc.2.2.2.2)
  exact ((h1.monoAssign hk).envTriggerWith hv).ite h1

theorem Inv.monoKeyOff (h : Inv s) (k : Note) : Inv (monoKeyOff k s) := by
  obtain ⟨r1, r2, r3⟩ := h.alloc.2.2.2.2
  refine Inv.ite ?_ h
  have h1 := h.withHeld (l := s.alloc.held.erase k)
    ⟨(List.length_erase_le).trans r1, fun n hn => r2 n (List.mem_of_mem_erase hn), r3.erase k⟩
  dsimp only
  generalize s.withAlloc _ = x at h1
  split
  · exact (h1.setKey 0 OptNote.none (.inl rfl)).envReleaseNow
  · next w hw => exact h1.ite (h1.monoAssign (h1.alloc.2.2.2.2.2.1 w (winner_mem hw)))

/-! ## Capture -/

/-- Replacing a Sequence record by a legal one of the same length. -/
theorem Inv.setSeq_sameLength (h : Inv s) {q : Fin 8} {S : Sequence} (hS : SequenceOk s.params S)
    (hl : S.patternLength = s.mem.seq[q].patternLength) : Inv (s.withMem (s.mem.setSeq q S)) := by
  have e : (currentSeq (s.withMem (s.mem.setSeq q S))).patternLength = (currentSeq s).patternLength := by
    simp only [currentSeq, State.withMem_mem, State.withMem_seq, Memory.setSeq_seq, Fin.getElem_fin,
      Vector.getElem_set]
    split
    · next hq => rw [hl]; simp [hq]
    · rfl
  refine { h with mem := ⟨?_, fun p => ?_⟩, seq := e ▸ h.seq }
  · rw [State.withMem_mem, Memory.setSeq_wf]; exact h.mem.1
  · simp only [State.withMem_mem, Memory.setSeq_seq, Fin.getElem_fin, Vector.getElem_set]
    split
    · exact hS
    · exact h.mem.2 p

theorem Inv.seqCapture (h : Inv s) : Inv (seqCapture s) := by
  have hS := h.mem.2 s.seq.sel
  refine h.setSeq_sameLength ⟨fun v t => ?_, hS.2⟩ rfl
  simp only [Fin.getElem_fin, Vector.getElem_ofFn, Vector.getElem_set]
  split
  · intro n hn
    unfold capturedNote at hn
    split at hn
    · exact (h.voices v).1 n hn
    · cases hn
  · exact hS.1 v t

theorem Inv.allocKeyOn (h : Inv s) {k : Note} {vel : Int} (hk : IsNote s.params k) (hv : IsVel vel) :
    Inv (allocKeyOn k vel s) := by
  have h1 : Inv (if s.alloc.voiceMode = .paraphonic then Machine.paraKeyOn k vel s else Machine.monoKeyOn k vel s) :=
    (h.paraKeyOn hk hv).ite (h.monoKeyOn hk hv)
  unfold Machine.allocKeyOn
  extract_lets x
  exact Inv.ite (Inv.seqCapture h1) h1

end Sys2Proof.Machine
end

