-- ==== Sys2Proof/Laws/InvariantTicks.lean ====
section
/-! SUPPORT. The invariants of 10_state R55, the three ticks that read tables by an index of their own (41_audio_mixer
R150, 43_lfo R217, 46_clock R275) and the ports: in a legal state each tick completes, in a legal state. -/

namespace Sys2Proof.Machine

variable {s : State}

/-! ## The clock tick -/

theorem Inv.lfoSyncPoint (h : Inv s) : Inv (lfoSyncPoint s) := h.clockLfoSync.ite h

theorem Inv.emitMidiClock (h : Inv s) : Inv (emitMidiClock s) := by
  obtain ⟨o1, o2, o3, o4, -, o6⟩ := h.outbox
  refine Inv.ite (h.withOutbox ⟨o1, o2, o3, o4, ?_, o6⟩) h
  exact Nat.min_le_left _ _

theorem Inv.midiClockStep (h : Inv s) : Inv (midiClockStep s) := by
  have h1 := h.emitMidiClock
  refine Inv.ite ?_ h
  obtain ⟨c1, c2, c3, c4, c5, c6, -, c8⟩ := h.clock
  have e : (Machine.emitMidiClock s).clock = s.clock := by simp
  have hp : (Machine.emitMidiClock s).params = s.params := by simp
  rw [← hp] at c3
  refine h1.withClock ⟨c1, c2, c3, c4, c5, c6, Nat.mod_lt _ (by decide), c8⟩ (by rw [e])

theorem Inv.beatStep (h : Inv s) : Inv (beatStep s) := h.withClock h.clock rfl

theorem Inv.setFreeLatch (h : Inv s) (b : Bool) : Inv (setFreeLatch b s) := h.withClock h.clock rfl

theorem Inv.freePlay (h : Inv s) : Inv (freePlay s) :=
  h.ite (h.setFreeLatch true).seqReleasePending.arpReleasePending

theorem Inv.clockDispatch (h : Inv s) : ∃ t, clockDispatch s = some t ∧ Inv t := by
  unfold Machine.clockDispatch
  split
  · exact ⟨_, rfl, (h.setFreeLatch false).arpDispatch⟩
  · split
    · exact (h.setFreeLatch false).seqDispatch
    · exact ⟨_, rfl, h.freePlay⟩

theorem nextEighth_lt (n : Nat) : nextEighth n < 2 ^ 32 := Nat.mod_lt _ (by decide)

/-- Pulse 0 of an eighth note. -/
theorem Inv.zeroPulse (h : Inv s) :
    Inv (s.withClock { s.clock with pulse := 0, eighth := nextEighth s.clock.eighth }) := by
  obtain ⟨c1, c2, c3, c4⟩ := h.clock
  exact h.withClock ⟨measure_pos h, nextEighth_lt _, c3, c4⟩ rfl

theorem Inv.pulseAdvance (h : Inv s) : Inv (pulseAdvance s) := by
  unfold Machine.pulseAdvance
  split
  · exact h.zeroPulse
  · next hlt =>
    obtain ⟨c1, c2, c3, c4⟩ := h.clock
    exact h.withClock ⟨by simpa [measure] using hlt, c2, c3, c4⟩ rfl

/-- In a legal state CLOCK_TICK completes, in a legal state. -/
theorem Inv.clockTickStep (h : Inv s) : ∃ t, clockTickStep s = some t ∧ Inv t := by
  obtain ⟨t, ht, hi⟩ := h.lfoSyncPoint.midiClockStep.beatStep.clockDispatch
  exact ⟨_, by rw [Machine.clockTickStep, ht]; rfl, hi.pulseAdvance⟩

/-! ## The external clock -/

theorem Inv.noticeExtLoss (h : Inv s) : Inv (noticeExtLoss s) := h.extLost.ite h

theorem Inv.extPhaseLock (h : Inv s) : Inv (extPhaseLock s) := h.zeroPulse.ite h

theorem Inv.extClockMessage (h : Inv s) : Inv (extClockMessage s) := by
  have h1 := (h.withClock (x := { s.clock with receivingClock := true }) h.clock rfl).recomputeSwing.extPhaseLock
  have e : Machine.extClockMessage s =
      (let s := Machine.extPhaseLock (Machine.recomputeSwing (s.withClock { s.clock with receivingClock := true }))
      let s := s.withExt { s.ext with extPulse := (s.ext.extPulse + 1) % Config.extPulsesPerEighth }
      let s := if s.ext.extSeen then Machine.bpmEstimate (s.since s.ext.lastExtTime) s else s
      s.withExt { s.ext with lastExtTime := s.inputs.now, extSeen := true }) := rfl
  rw [e]
  generalize Machine.extPhaseLock _ = x at h1
  have h2 : Inv (x.withExt { x.ext with extPulse := (x.ext.extPulse + 1) % Config.extPulsesPerEighth }) := by
    obtain ⟨-, e2⟩ := h1.ext
    exact h1.withExt ⟨Nat.lt_succ_iff.1 (Nat.mod_lt _ (by decide)), e2⟩
  dsimp only
  generalize x.withExt _ = y at h2
  have h3 : Inv (if y.ext.extSeen then Machine.bpmEstimate (y.since y.ext.lastExtTime) y else y) :=
    (h2.bpmEstimate _).ite h2
  generalize (if y.ext.extSeen then Machine.bpmEstimate (y.since y.ext.lastExtTime) y else y) = z at h3
  exact h3.withExt h3.ext

/-! ## The LFO tick -/

theorem sineTable_isSample : ∀ x ∈ sineTable, IsSample x := by decide +kernel

theorem wtRead_sine_isSample (i : Int) : IsSample (sineTable.getD i.toNat 0) := by
  rw [List.getD_eq_getElem?_getD]
  cases h : sineTable[i.toNat]? with
  | none => exact ⟨by simp, by simp⟩
  | some x => exact sineTable_isSample x (List.mem_of_getElem? h)

/-- WTRead answers for every index of a wavetable, with a sample, and changes nothing but the draws (20_memory R72). -/
theorem Inv.wtRead (h : Inv s) (w : Wave) {i : Int} (hi : 0 ≤ i ∧ i < 600) :
    ∃ x t, wtRead w i s = some (x, t) ∧ IsSample x ∧ Inv t ∧ t = s.withInputs t.inputs := by
  have hi' : 0 ≤ i ∧ i < (Config.tableLen : Int) := hi
  have hmem : ∀ u : Fin 3, ∃ x, memRead (.user u) i s = some x ∧ IsSample x := fun u =>
    ⟨_, memRead_eq_some hi'.1 hi'.2, sample_isSample _⟩
  have e : s = s.withInputs s.inputs := rfl
  cases w with
  | sine => exact ⟨_, _, by simp only [Machine.wtRead, builtIn, if_pos hi']; rfl, wtRead_sine_isSample i, h, e⟩
  | triangle =>
    refine ⟨_, _, by simp only [Machine.wtRead, builtIn, if_pos hi']; rfl, ?_, h, e⟩
    simp only [IsSample, triangleEntry]
    split <;> omega
  | saw =>
    refine ⟨_, _, by simp only [Machine.wtRead, builtIn, if_pos hi']; rfl, ?_, h, e⟩
    simp only [IsSample, sawEntry]
    omega
  | square =>
    refine ⟨_, _, rfl, ?_, h, e⟩
    unfold squareEntry
    split <;> decide
  | user1 => obtain ⟨x, hx, hs⟩ := hmem 0; exact ⟨x, s, by simp [Machine.wtRead, hx], hs, h, e⟩
  | user2 => obtain ⟨x, hx, hs⟩ := hmem 1; exact ⟨x, s, by simp [Machine.wtRead, hx], hs, h, e⟩
  | user3 => obtain ⟨x, hx, hs⟩ := hmem 2; exact ⟨x, s, by simp [Machine.wtRead, hx], hs, h, e⟩
  | noise => exact ⟨_, _, rfl, draw_bounds (lo := 0) (hi := 4095) (by decide) s, h.draw 0 4095, rfl⟩

theorem Inv.lfoAdvance (h : Inv s) : ∃ t, lfoAdvance s = some t ∧ Inv t := by
  have h1 : Inv (s.withLfo { s.lfo with counter := 0, index := (s.lfo.index + 1) % Config.tableLen }) := by
    obtain ⟨-, -, l3⟩ := h.lfo
    exact h.withLfo ⟨Nat.mod_lt _ (by decide), by simp, l3⟩
  have e : Machine.lfoAdvance s = (do
      let s := s.withLfo { s.lfo with counter := 0, index := (s.lfo.index + 1) % Config.tableLen }
      let (x, s) ← Machine.wtRead s.lfo.shape (s.lfo.index : Int) s
      return Machine.lfoOutputs (s.withLfo { s.lfo with val := x })) := rfl
  rw [e]
  generalize s.withLfo _ = y at h1
  have hidx := h1.lfo.1
  obtain ⟨x, t, ht, hx, hi, -⟩ := h1.wtRead y.lfo.shape (i := (y.lfo.index : Int)) (by omega)
  refine ⟨_, by dsimp only; rw [ht]; rfl, ?_⟩
  obtain ⟨l1, l2, -, l4⟩ := hi.lfo
  exact (hi.withLfo (x := { t.lfo with val := x }) ⟨l1, l2, hx, l4⟩).lfoOutputs

/-- In a legal state LFO_TICK completes, in a legal state: the counter never passes the target for long, so it stays a
32-bit count (43_lfo R217, R238). -/
theorem Inv.lfoTickStep (h : Inv s) : ∃ t, lfoTickStep s = some t ∧ Inv t := by
  have h1 := h.withUi (uiTick_ok h.params h.ui)
  have ht := lfoTarget_bounds h
  have e : Machine.lfoTickStep s =
      (let b := (s.withUi (uiTick s.params s.ui)).withLfo { s.lfo with counter := s.lfo.counter + 1 }
      if lfoTarget s ≤ ((s.lfo.counter + 1 : Nat) : Int) then Machine.lfoAdvance b else some b) := rfl
  rw [e]
  dsimp only
  obtain ⟨l1, l2, l3⟩ := h.lfo
  split
  · have hb : Inv ((s.withUi (uiTick s.params s.ui)).withLfo { s.lfo with counter := 0 }) :=
      h1.withLfo ⟨l1, by simp, l3⟩
    exact hb.lfoAdvance
  · next hlt =>
    refine ⟨_, rfl, h1.withLfo ⟨l1, ?_, l3⟩⟩
    show s.lfo.counter + 1 < 2 ^ 32
    omega

/-! ## The audio tick -/

theorem bitMunch_isSample {d : Nat} {x : Int} (hd : d ≤ 11) (hx : IsSample x) : IsSample (bitMunch d x) := by
  have hp : (0 : Int) < 2 ^ d := by positivity
  have h1 : asr (x - 2048) d * 2 ^ d ≤ x - 2048 := Int.ediv_mul_le _ hp.ne'
  have h2 : -2048 ≤ asr (x - 2048) d * 2 ^ d := by
    obtain ⟨k, hk⟩ : ∃ k : Nat, 11 = d + k := ⟨11 - d, by omega⟩
    have he : (2048 : Int) = 2 ^ k * 2 ^ d := by rw [← pow_add, Nat.add_comm, ← hk]; norm_num
    have : -(2 ^ k : Int) ≤ asr (x - 2048) d := by
      rw [asr, Int.le_ediv_iff_mul_le hp]
      have := hx.1
      nlinarith
    nlinarith
  simp only [IsSample, bitMunch, Config.centre] at *
  omega

theorem lfoGain_isGain (s : State) : IsGain (lfoGain s) := clamp_bounds (by decide) _

theorem amplitudeChain_isSample (h : Inv s) {x : Int} (hx : IsSample x) : IsSample (amplitudeChain s x) :=
  cmul_isSample (cmul_isSample (cmul_isSample (bitMunch_isSample (h.mixer.1.trans h.params.bitMunch) hx) h.env.1)
    (lfoGain_isGain s))
    h.vel.2.2.1

theorem phaseIndex_bounds {p : Params} {x : Int} (h : 0 ≤ x ∧ x < p.cycle) :
    0 ≤ phaseIndex p x ∧ phaseIndex p x < 600 := by
  have hf := fracUnit_pos p
  exact ⟨Int.ediv_nonneg h.1 hf.le, Int.ediv_lt_of_lt_mul hf h.2⟩

theorem oscSample_ok (h : Inv s) (o : Fin 8) : ∃ x, oscSample o s = some x ∧ IsSample x := by
  unfold oscSample
  split
  · obtain ⟨x, t, hw, hx, -⟩ := h.wtRead s.engines[engineOf o].wave (phaseIndex_bounds (h.osc o).1)
    exact ⟨x, by rw [hw]; rfl, hx⟩
  · exact ⟨_, rfl, by decide⟩

theorem engineRaw_ok (h : Inv s) (e : Fin 2) : ∃ x, engineRaw e s = some x ∧ IsSample x := by
  obtain ⟨a, ha, ha'⟩ := oscSample_ok h (oscOf e 0)
  obtain ⟨b, hb, hb'⟩ := oscSample_ok h (oscOf e 1)
  obtain ⟨c, hc, hc'⟩ := oscSample_ok h (oscOf e 2)
  obtain ⟨d, hd, hd'⟩ := oscSample_ok h (oscOf e 3)
  refine ⟨asr (a + b + c + d) 2, by simp [engineRaw, ha, hb, hc, hd], ?_⟩
  simp only [IsSample, asr] at *
  omega

theorem Inv.engineOut (h : Inv s) (e : Fin 2) :
    ∃ x t, engineOut e s = some (x, t) ∧ IsSample x ∧ Inv t ∧ t = s.withInputs t.inputs := by
  have key : ∃ i t, engineIndex e s = some (i, t) ∧ IsSample i ∧ Inv t ∧ t = s.withInputs t.inputs := by
    unfold engineIndex
    split
    · exact ⟨_, _, rfl, draw_bounds (lo := 0) (hi := 4095) (by decide) s, h.draw 0 4095, rfl⟩
    · obtain ⟨x, hx, hs⟩ := engineRaw_ok h e
      exact ⟨x, s, by rw [hx]; rfl, hs, h, rfl⟩
  obtain ⟨i, t, hi, hs, ht, he⟩ := key
  refine ⟨((t.mem.read (.vol e) i.toNat).toNat : Int), t, ?_, sample_isSample _, ht, he⟩
  have hm : memRead (.vol e) i t = some ((t.mem.read (.vol e) i.toNat).toNat : Int) :=
    memRead_eq_some hs.1 (by have := hs.2; simp only [Space.size, Config.lookupLen]; omega)
  simp [Machine.engineOut, hi, hm]

theorem Inv.stepLoadRamp (h : Inv s) : Inv (stepLoadRamp s) := by
  obtain ⟨m1, -, m3⟩ := h.mixer
  exact h.withMixer ⟨m1, clamp_bounds (by decide) _, m3⟩

theorem Inv.emitSample (h : Inv s) (x : Int) : Inv (emitSample x s) := h.withMixer h.mixer

theorem memRead_lookup {T : Space} (hT : T.size = 4096) {x : Int} (hx : IsSample x) (s : State) :
    ∃ y, memRead T x s = some y ∧ IsSample y := by
  refine ⟨_, memRead_eq_some hx.1 ?_, sample_isSample _⟩
  have := hx.2
  rw [hT]; omega

/-- In a legal state AUDIO_TICK completes, in a legal state. -/
theorem Inv.audioTickStep (h : Inv s) : ∃ t, audioTickStep s = some t ∧ Inv t := by
  have h1 := h.phaseAdvance
  obtain ⟨v0, t0, e0, b0, h2, -⟩ := h1.engineOut 0
  obtain ⟨v1, t1, e1, b1, h3, -⟩ := h2.engineOut 1
  have hmix : IsSample (asr (v0 + v1) 1) := by
    simp only [IsSample, asr] at *
    omega
  obtain ⟨s6, e6, -⟩ := memRead_lookup (T := .shaper) rfl (amplitudeChain_isSample h3 hmix) t1
  have h4 := h3.filterStep s6
  obtain ⟨s9, e9, -⟩ := memRead_lookup (T := .gain) rfl
    (clamp_bounds (lo := 0) (hi := 4095) (by decide) (Machine.filterStep s6 t1).1) (Machine.filterStep s6 t1).2
  have e : Machine.audioTickStep s =
      some (Machine.emitSample (outputGain (Machine.stepLoadRamp (Machine.filterStep s6 t1).2) s9)
        (Machine.stepLoadRamp (Machine.filterStep s6 t1).2)) := by
    simp only [Machine.audioTickStep, e0, e1, e6, Option.bind_eq_bind, Option.bind_some]
    erw [e9]
    rfl
  exact ⟨_, e, h4.stepLoadRamp.emitSample _⟩

/-! ## The ports -/

theorem latch_nodup {q : Strobe} {b : Bool} {l : List Strobe} (h : l.Nodup) : (latch q b l).Nodup := by
  unfold latch
  split
  · next hc =>
    simp only [Bool.and_eq_true, Bool.not_eq_true', decide_eq_false_iff_not] at hc
    refine List.nodup_append.2 ⟨h, List.nodup_singleton q, ?_⟩
    intro a ha b hb e
    rw [List.mem_singleton.1 hb] at e
    exact hc.2 (e ▸ ha)
  · exact h

theorem Inv.acceptEvent (h : Inv s) (e : PortEvent) : Inv (acceptEvent s e) :=
  Inv.withInputs (h.withPorts (latch_nodup (latch_nodup (latch_nodup h.ports))))

theorem Inv.accept (h : Inv s) : Inv (accept s) := by
  have key : ∀ (l : List PortEvent) (x : State), Inv x → Inv (l.foldl Machine.acceptEvent x) := by
    intro l
    induction l with
    | nil => exact fun _ hx => hx
    | cons e l ih => exact fun x hx => ih _ (hx.acceptEvent e)
  unfold Machine.accept
  split
  · exact key _ _ h.withInputs
  · exact h

/-- Arrivals leave the configuration. -/
theorem accept_params (s : State) : (accept s).params = s.params := by
  have key : ∀ (l : List PortEvent) (x : State), (l.foldl acceptEvent x).params = x.params := by
    intro l
    induction l with
    | nil => exact fun _ => rfl
    | cons e l ih => exact fun x => ih _
  unfold accept
  split
  · exact key _ _
  · rfl

/-- Taking a request keeps a legal state legal, and the configuration. -/
theorem Inv.arbitrate {t : State} {w : CmdWord} (h : Inv s) (ha : arbitrate s = some (w, t)) :
    Inv t ∧ t.params = s.params := by
  unfold Machine.arbitrate at ha
  split at ha
  · cases ha; exact ⟨h.withPorts h.ports, rfl⟩
  · split at ha
    · next hs =>
      cases ha
      have : s.ports.strobes.Nodup := h.ports
      rw [hs] at this
      exact ⟨h.withPorts (List.nodup_cons.1 this).2, rfl⟩
    · split at ha
      · cases ha; exact ⟨Inv.withPorts h.withInputs h.ports, rfl⟩
      · cases ha

end Sys2Proof.Machine
end

