-- ==== Sys2Proof/Laws/PerInstr.lean ====
section
/-! SUPPORT. Statements for all instructions, one lemma per constructor. -/

namespace Sys2Proof.Laws

open Sys2Proof Sys2Proof.Machine

/-- The encoding of an operation carries an operation code that 30_encoding R102 lists. -/
def Encoding.Statement (i : Instr) : Prop := opOf (encode i) ∈ legalOps

theorem Encoding.of_pack {op : OpField} (h : op ∈ legalOps) (sel : SelField) (addr : AddrField) (data : DataField) :
    opOf (packWord op sel addr data) ∈ legalOps := by rw [opOf_packWord]; exact h

theorem Encoding.nop : Encoding.Statement .nop :=
  Encoding.of_pack (by decide) _ _ _
theorem Encoding.audioTick : Encoding.Statement .audioTick :=
  Encoding.of_pack (by decide) _ _ _
theorem Encoding.lfoTick : Encoding.Statement .lfoTick :=
  Encoding.of_pack (by decide) _ _ _
theorem Encoding.envTick : Encoding.Statement .envTick :=
  Encoding.of_pack (by decide) _ _ _
theorem Encoding.clockTick : Encoding.Statement .clockTick :=
  Encoding.of_pack (by decide) _ _ _
theorem Encoding.reset : Encoding.Statement .reset :=
  Encoding.of_pack (by decide) _ _ _
theorem Encoding.loadMute (data : DataField) : Encoding.Statement (.loadMute data) :=
  Encoding.of_pack (by decide) _ _ _
theorem Encoding.setMasterVol (data : DataField) : Encoding.Statement (.setMasterVol data) :=
  Encoding.of_pack (by decide) _ _ _
theorem Encoding.clrStatus (data : DataField) : Encoding.Statement (.clrStatus data) :=
  Encoding.of_pack (by decide) _ _ _
theorem Encoding.reportStoreErr : Encoding.Statement .reportStoreErr :=
  Encoding.of_pack (by decide) _ _ _
theorem Encoding.setBitmunch (data : DataField) : Encoding.Statement (.setBitmunch data) :=
  Encoding.of_pack (by decide) _ _ _
theorem Encoding.outboxDrain : Encoding.Statement .outboxDrain :=
  Encoding.of_pack (by decide) _ _ _
theorem Encoding.setWave (sel : SelField) (data : DataField) : Encoding.Statement (.setWave sel data) :=
  Encoding.of_pack (by decide) _ _ _
theorem Encoding.setOctave (sel : SelField) (data : DataField) : Encoding.Statement (.setOctave sel data) :=
  Encoding.of_pack (by decide) _ _ _
theorem Encoding.setVolume (sel : SelField) (data : DataField) : Encoding.Statement (.setVolume sel data) :=
  Encoding.of_pack (by decide) _ _ _
theorem Encoding.setDetune (sel : SelField) (data : DataField) : Encoding.Statement (.setDetune sel data) :=
  Encoding.of_pack (by decide) _ _ _
theorem Encoding.setPw (data : DataField) : Encoding.Statement (.setPw data) :=
  Encoding.of_pack (by decide) _ _ _
theorem Encoding.writeWavetable (sel : SelField) (addr : AddrField) (data : DataField) : Encoding.Statement (.writeWavetable sel addr data) :=
  Encoding.of_pack (by decide) _ _ _
theorem Encoding.setAttack (data : DataField) : Encoding.Statement (.setAttack data) :=
  Encoding.of_pack (by decide) _ _ _
theorem Encoding.setDecay (data : DataField) : Encoding.Statement (.setDecay data) :=
  Encoding.of_pack (by decide) _ _ _
theorem Encoding.setSustain (data : DataField) : Encoding.Statement (.setSustain data) :=
  Encoding.of_pack (by decide) _ _ _
theorem Encoding.setRelease (data : DataField) : Encoding.Statement (.setRelease data) :=
  Encoding.of_pack (by decide) _ _ _
theorem Encoding.envTrigger (data : DataField) : Encoding.Statement (.envTrigger data) :=
  Encoding.of_pack (by decide) _ _ _
theorem Encoding.envRelease : Encoding.Statement .envRelease :=
  Encoding.of_pack (by decide) _ _ _
theorem Encoding.setLfoShape (data : DataField) : Encoding.Statement (.setLfoShape data) :=
  Encoding.of_pack (by decide) _ _ _
theorem Encoding.setLfoRate (data : DataField) : Encoding.Statement (.setLfoRate data) :=
  Encoding.of_pack (by decide) _ _ _
theorem Encoding.setLfoRange (data : DataField) : Encoding.Statement (.setLfoRange data) :=
  Encoding.of_pack (by decide) _ _ _
theorem Encoding.setLfoRetrig (data : DataField) : Encoding.Statement (.setLfoRetrig data) :=
  Encoding.of_pack (by decide) _ _ _
theorem Encoding.setLfoSync (data : DataField) : Encoding.Statement (.setLfoSync data) :=
  Encoding.of_pack (by decide) _ _ _
theorem Encoding.lfoSyncReset : Encoding.Statement .lfoSyncReset :=
  Encoding.of_pack (by decide) _ _ _
theorem Encoding.setMod (sel : SelField) (data : DataField) : Encoding.Statement (.setMod sel data) :=
  Encoding.of_pack (by decide) _ _ _
theorem Encoding.setCutoff (data : DataField) : Encoding.Statement (.setCutoff data) :=
  Encoding.of_pack (by decide) _ _ _
theorem Encoding.setResonance (data : DataField) : Encoding.Statement (.setResonance data) :=
  Encoding.of_pack (by decide) _ _ _
theorem Encoding.setFilterMode (data : DataField) : Encoding.Statement (.setFilterMode data) :=
  Encoding.of_pack (by decide) _ _ _
theorem Encoding.setFilterBypass (data : DataField) : Encoding.Statement (.setFilterBypass data) :=
  Encoding.of_pack (by decide) _ _ _
theorem Encoding.setShaper (sel : SelField) (data : DataField) : Encoding.Statement (.setShaper sel data) :=
  Encoding.of_pack (by decide) _ _ _
theorem Encoding.setGain (data : DataField) : Encoding.Statement (.setGain data) :=
  Encoding.of_pack (by decide) _ _ _
theorem Encoding.setBpm (data : DataField) : Encoding.Statement (.setBpm data) :=
  Encoding.of_pack (by decide) _ _ _
theorem Encoding.setDivision (data : DataField) : Encoding.Statement (.setDivision data) :=
  Encoding.of_pack (by decide) _ _ _
theorem Encoding.extClock : Encoding.Statement .extClock :=
  Encoding.of_pack (by decide) _ _ _
theorem Encoding.extStart : Encoding.Statement .extStart :=
  Encoding.of_pack (by decide) _ _ _
theorem Encoding.extStop : Encoding.Statement .extStop :=
  Encoding.of_pack (by decide) _ _ _
theorem Encoding.setMidiSync (data : DataField) : Encoding.Statement (.setMidiSync data) :=
  Encoding.of_pack (by decide) _ _ _
theorem Encoding.clockPoll : Encoding.Statement .clockPoll :=
  Encoding.of_pack (by decide) _ _ _
theorem Encoding.seqStart : Encoding.Statement .seqStart :=
  Encoding.of_pack (by decide) _ _ _
theorem Encoding.seqStop : Encoding.Statement .seqStop :=
  Encoding.of_pack (by decide) _ _ _
theorem Encoding.seqSelect (sel : SelField) : Encoding.Statement (.seqSelect sel) :=
  Encoding.of_pack (by decide) _ _ _
theorem Encoding.setPlayMode (data : DataField) : Encoding.Statement (.setPlayMode data) :=
  Encoding.of_pack (by decide) _ _ _
theorem Encoding.setBankMode (data : DataField) : Encoding.Statement (.setBankMode data) :=
  Encoding.of_pack (by decide) _ _ _
theorem Encoding.seqWrite (sel : SelField) (field : BitVec 4) (sub : BitVec 4) (step : BitVec 4) (data : DataField) : Encoding.Statement (.seqWrite sel field sub step data) :=
  Encoding.of_pack (by decide) _ _ _
theorem Encoding.seqSetParam (sel : SelField) (addr : AddrField) (data : DataField) : Encoding.Statement (.seqSetParam sel addr data) :=
  Encoding.of_pack (by decide) _ _ _
theorem Encoding.seqCopy (sel : SelField) (addr : AddrField) : Encoding.Statement (.seqCopy sel addr) :=
  Encoding.of_pack (by decide) _ _ _
theorem Encoding.seqClear (sel : SelField) : Encoding.Statement (.seqClear sel) :=
  Encoding.of_pack (by decide) _ _ _
theorem Encoding.seqEdit (step : BitVec 4) (data : DataField) : Encoding.Statement (.seqEdit step data) :=
  Encoding.of_pack (by decide) _ _ _
theorem Encoding.arpEnable (data : DataField) : Encoding.Statement (.arpEnable data) :=
  Encoding.of_pack (by decide) _ _ _
theorem Encoding.setArpDir (data : DataField) : Encoding.Statement (.setArpDir data) :=
  Encoding.of_pack (by decide) _ _ _
theorem Encoding.setArpStepMode (data : DataField) : Encoding.Statement (.setArpStepMode data) :=
  Encoding.of_pack (by decide) _ _ _
theorem Encoding.setArpOctRange (data : DataField) : Encoding.Statement (.setArpOctRange data) :=
  Encoding.of_pack (by decide) _ _ _
theorem Encoding.setArpNoteDur (data : DataField) : Encoding.Statement (.setArpNoteDur data) :=
  Encoding.of_pack (by decide) _ _ _
theorem Encoding.setArpSource (data : DataField) : Encoding.Statement (.setArpSource data) :=
  Encoding.of_pack (by decide) _ _ _
theorem Encoding.setArpMono (data : DataField) : Encoding.Statement (.setArpMono data) :=
  Encoding.of_pack (by decide) _ _ _
theorem Encoding.keyOn (addr : AddrField) (data : DataField) : Encoding.Statement (.keyOn addr data) :=
  Encoding.of_pack (by decide) _ _ _
theorem Encoding.keyOff (addr : AddrField) : Encoding.Statement (.keyOff addr) :=
  Encoding.of_pack (by decide) _ _ _
theorem Encoding.setVoiceMode (data : DataField) : Encoding.Statement (.setVoiceMode data) :=
  Encoding.of_pack (by decide) _ _ _
theorem Encoding.setUnison (data : DataField) : Encoding.Statement (.setUnison data) :=
  Encoding.of_pack (by decide) _ _ _
theorem Encoding.setUnisonSpread (data : DataField) : Encoding.Statement (.setUnisonSpread data) :=
  Encoding.of_pack (by decide) _ _ _
theorem Encoding.setPortamento (data : DataField) : Encoding.Statement (.setPortamento data) :=
  Encoding.of_pack (by decide) _ _ _
theorem Encoding.setVoice (sel : SelField) (data : DataField) : Encoding.Statement (.setVoice sel data) :=
  Encoding.of_pack (by decide) _ _ _

end Sys2Proof.Laws
end

