-- ==== Sys2Proof/Tests/Slice0.lean ====
section
/-! SUPPORT. The model's own tests: ill-formed operations are refused by the check, every operation's word written out
from 30_encoding R101, R102 decodes to it, single steps give what the examples of the spec's rules say, and the
hypotheses of the obligations can be met. Expected values are the spec's. -/

namespace Sys2Proof.Machine

/-! ## Helpers -/

/-- The state after one operation. -/
def ran (i : Instr) (s : State) : Option State :=
  match exec i s with
  | .next t => some t
  | .fault _ => none
  | .refused _ => none

/-- The reset state at a time. -/
def resetAt (t : Time) : State := State.reset.withInputs { State.reset.inputs with now := t }

/-- A legal configuration that differs from the default: 16.16 phases, 10 fraction bits in the filter, other ranges. -/
def otherParams : Params :=
  { Params.standard with
    fracBits := 16, incMax := 19660800, incTable := (List.range 128).map fun n => (n : Int)
    noteRef := 64, noteMin := -64, noteMax := 63, octMin := -1, octMax := 1, detuneMax := 99, bitMunchMax := 4
    gainSlope := 7, nShaperType := 6, loadRampStep := 8, envClickThresh := 20, envClickStep := 21, fxShift := 10
    fxUnity := 1024, lfoTicksMin := 50, lfoTicksMax := 60, uiRefreshDiv := 2, heldCap := 2
    divTable := #v[96, 8, 4, 2], swingMax := 100, lfoAmpShift := 13, envCutShift := 13, velCutShift := 10 }

/-- The reset state under that configuration. -/
def otherReset : State := State.resetWith otherParams

/-! ## WellFormed (30_encoding R106, R110) -/

theorem test_illformed_setWave : Instr.WellFormed Params.standard (.setWave 2 0) = false := by decide
theorem test_illformed_setOctave : Instr.WellFormed Params.standard (.setOctave 2 0) = false := by decide
theorem test_illformed_setVolume : Instr.WellFormed Params.standard (.setVolume 255 0) = false := by decide
theorem test_illformed_setDetune : Instr.WellFormed Params.standard (.setDetune 2 0) = false := by decide
theorem test_illformed_writeWavetable_table : Instr.WellFormed Params.standard (.writeWavetable 3 0 0) = false := by decide
theorem test_illformed_writeWavetable_index : Instr.WellFormed Params.standard (.writeWavetable 0 600 0) = false := by decide
theorem test_illformed_setMod : Instr.WellFormed Params.standard (.setMod 17 0) = false := by decide
theorem test_illformed_setShaper : Instr.WellFormed Params.standard (.setShaper 4 0) = false := by decide
theorem test_illformed_seqSelect : Instr.WellFormed Params.standard (.seqSelect 8) = false := by decide
theorem test_illformed_seqWrite_sequence : Instr.WellFormed Params.standard (.seqWrite 8 1 0 0 0) = false := by decide
theorem test_illformed_seqWrite_field : Instr.WellFormed Params.standard (.seqWrite 0 6 0 0 0) = false := by decide
theorem test_illformed_seqWrite_voice : Instr.WellFormed Params.standard (.seqWrite 0 0 4 0 0) = false := by decide
theorem test_illformed_seqWrite_ccNum : Instr.WellFormed Params.standard (.seqWrite 0 4 4 0 0) = false := by decide
theorem test_illformed_seqWrite_ccVal : Instr.WellFormed Params.standard (.seqWrite 0 5 15 0 0) = false := by decide
theorem test_illformed_seqSetParam_sequence : Instr.WellFormed Params.standard (.seqSetParam 8 0 0) = false := by decide
theorem test_illformed_seqSetParam_parameter : Instr.WellFormed Params.standard (.seqSetParam 0 6 0) = false := by decide
theorem test_illformed_seqCopy_source : Instr.WellFormed Params.standard (.seqCopy 8 0) = false := by decide
theorem test_illformed_seqCopy_destination : Instr.WellFormed Params.standard (.seqCopy 0 8) = false := by decide
theorem test_illformed_seqClear : Instr.WellFormed Params.standard (.seqClear 8) = false := by decide
theorem test_illformed_setVoice : Instr.WellFormed Params.standard (.setVoice 4 0) = false := by decide

theorem test_wellformed_at_the_bounds :
    [Instr.setWave 1 9, .writeWavetable 2 599 0, .setMod 16 0, .setShaper 3 0, .seqWrite 7 0 3 15 0, .seqWrite 7 1 15 0 0,
      .seqSetParam 7 5 0, .seqCopy 7 7, .setVoice 3 0].all
        (Instr.WellFormed Params.standard) = true := by decide

/-! ## Decoding: one word for each operation -/

theorem test_decode_system :
    decode 0x0000000000000000#64 = .ok .nop ∧
    decode 0x0100000000000000#64 = .ok .audioTick ∧
    decode 0x0200000000000000#64 = .ok .lfoTick ∧
    decode 0x0300000000000000#64 = .ok .envTick ∧
    decode 0x0400000000000000#64 = .ok .clockTick ∧
    decode 0x0500000000000000#64 = .ok .reset ∧
    decode 0x0600000000000001#64 = .ok (.loadMute 1) ∧
    decode 0x07000000000003FF#64 = .ok (.setMasterVol 1023) ∧
    decode 0x0800000000000003#64 = .ok (.clrStatus 3) ∧
    decode 0x0900000000000000#64 = .ok .reportStoreErr ∧
    decode 0x0A00000000000004#64 = .ok (.setBitmunch 4) ∧
    decode 0x0B00000000000000#64 = .ok .outboxDrain := by decide

theorem test_decode_oscillator_bank :
    decode 0x1001000000000002#64 = .ok (.setWave 1 2) ∧
    decode 0x11000000FFFFFFFF#64 = .ok (.setOctave 0 0xFFFFFFFF) ∧
    decode 0x1200000000000200#64 = .ok (.setVolume 0 512) ∧
    decode 0x13010000000037BA#64 = .ok (.setDetune 1 14266) ∧
    decode 0x1400000000000100#64 = .ok (.setPw 256) ∧
    decode 0x1502025700000FFF#64 = .ok (.writeWavetable 2 599 4095) := by decide

theorem test_decode_envelope :
    decode 0x2000000000002710#64 = .ok (.setAttack 10000) ∧
    decode 0x2100000080000001#64 = .ok (.setDecay 0x80000001) ∧
    decode 0x2200000000001000#64 = .ok (.setSustain 4096) ∧
    decode 0x230000000003D090#64 = .ok (.setRelease 250000) ∧
    decode 0x2400000000000064#64 = .ok (.envTrigger 100) ∧
    decode 0x2500000000000000#64 = .ok .envRelease := by decide

theorem test_decode_lfo :
    decode 0x3000000000000001#64 = .ok (.setLfoShape 1) ∧
    decode 0x3100000000000004#64 = .ok (.setLfoRate 4) ∧
    decode 0x3200000000000003#64 = .ok (.setLfoRange 3) ∧
    decode 0x3300000000000001#64 = .ok (.setLfoRetrig 1) ∧
    decode 0x3400000000000002#64 = .ok (.setLfoSync 2) ∧
    decode 0x3500000000000000#64 = .ok .lfoSyncReset ∧
    decode 0x36060000000003FF#64 = .ok (.setMod 6 1023) := by decide

theorem test_decode_filter_shaper :
    decode 0x4000000000000080#64 = .ok (.setCutoff 128) ∧
    decode 0x41000000000000C8#64 = .ok (.setResonance 200) ∧
    decode 0x4200000000000002#64 = .ok (.setFilterMode 2) ∧
    decode 0x4300000000000001#64 = .ok (.setFilterBypass 1) ∧
    decode 0x4801000000000200#64 = .ok (.setShaper 1 512) ∧
    decode 0x4900000000000000#64 = .ok (.setGain 0) := by decide

theorem test_decode_clock :
    decode 0x5000000000000078#64 = .ok (.setBpm 120) ∧
    decode 0x5100000000000003#64 = .ok (.setDivision 3) ∧
    decode 0x5200000000000000#64 = .ok .extClock ∧
    decode 0x5300000000000000#64 = .ok .extStart ∧
    decode 0x5400000000000000#64 = .ok .extStop ∧
    decode 0x5500000000000003#64 = .ok (.setMidiSync 3) ∧
    decode 0x5600000000000000#64 = .ok .clockPoll := by decide

theorem test_decode_sequencer :
    decode 0x6000000000000000#64 = .ok .seqStart ∧
    decode 0x6100000000000000#64 = .ok .seqStop ∧
    decode 0x6203000000000000#64 = .ok (.seqSelect 3) ∧
    decode 0x6300000000000004#64 = .ok (.setPlayMode 4) ∧
    decode 0x6400000000000001#64 = .ok (.setBankMode 1) ∧
    decode 0x6500002500000007#64 = .ok (.seqWrite 0 0 2 5 7) ∧
    decode 0x650705310000007F#64 = .ok (.seqWrite 7 5 3 1 127) ∧
    decode 0x6601000200000008#64 = .ok (.seqSetParam 1 2 8) ∧
    decode 0x6C00000300000000#64 = .ok (.seqCopy 0 3) ∧
    decode 0x6D05000000000000#64 = .ok (.seqClear 5) ∧
    decode 0x6E00000900000001#64 = .ok (.seqEdit 9 1) := by decide

theorem test_decode_arpeggiator :
    decode 0x7000000000000001#64 = .ok (.arpEnable 1) ∧
    decode 0x7300000000000001#64 = .ok (.setArpDir 1) ∧
    decode 0x7400000000000004#64 = .ok (.setArpStepMode 4) ∧
    decode 0x7500000000000003#64 = .ok (.setArpOctRange 3) ∧
    decode 0x760000000000005F#64 = .ok (.setArpNoteDur 95) ∧
    decode 0x7700000000000001#64 = .ok (.setArpSource 1) ∧
    decode 0x7800000000000001#64 = .ok (.setArpMono 1) := by decide

theorem test_decode_voice_allocator :
    decode 0x8000FFF40000007F#64 = .ok (.keyOn 0xFFF4 127) ∧
    decode 0x8100000400000000#64 = .ok (.keyOff 4) ∧
    decode 0x8200000000000003#64 = .ok (.setVoiceMode 3) ∧
    decode 0x8300000000000002#64 = .ok (.setUnison 2) ∧
    decode 0x8400000000004E20#64 = .ok (.setUnisonSpread 20000) ∧
    decode 0x85000000000186A0#64 = .ok (.setPortamento 100000) ∧
    decode 0x8602000000000009#64 = .ok (.setVoice 2 9) := by decide

theorem test_decode_undefined :
    [0x0C00000000000000#64, 0x6700000000000000#64, 0x7100000000000000#64, 0xFF00000000000000#64].all
      (fun w => decode w = .error (.illegalOp (opOf w))) = true := by decide

/-- 30_encoding R103: a field that is not read may hold anything. -/
theorem test_decode_ignores_unread_fields : decode 0x00FFFFFFFFFFFFFF#64 = .ok .nop ∧
    decode 0x6500F0250000000A#64 = .ok (.seqWrite 0 0 2 5 10) ∧ decode 0x8207FFFF00000001#64 = .ok (.setVoiceMode 1) := by
  decide

/-! ## Single steps: the examples of the spec's rules -/

/-- 30_encoding R109. -/
theorem test_undefined_opcode_sets_illegalCmd :
    (match step (State.reset.withFetchWord 64 0x0C00000000000000) with
      | .next t => some (statusWord t) | _ => none) = some 2 := by decide

/-- 60_exceptions R416: AUDIO_REQ overtakes a command that waits. -/
theorem test_audio_request_first :
    (arbitrate (((State.reset.present 0#64).withPorts { State.reset.ports with audioReq := true, strobes := [.clk] }))).map
      (opOf ·.1) = some 0x01#8 := by decide

theorem test_nop : ran .nop State.reset = some State.reset := by decide
/-- 70_reset_and_hazards R440. -/
theorem test_reset : (ran .reset ((State.reset.withStatus { storageFail := true, illegalCmd := true }).withFilter
    { State.reset.filter with lp0 := 7 })) = some State.reset := by decide
/-- 41_audio_mixer R150: after RESET one AUDIO_TICK leaves every phase 0 and puts out 2048. -/
theorem test_audioTick_silence : (ran .audioTick State.reset).map
    (fun t => (t.mixer.outL, t.mixer.outR, t.osc[0].phase, t.filter.lp0)) = some (2048, 2048, 0, 0) := by decide +kernel
/-- 40_oscillator_bank R123 and 41_audio_mixer R168. -/
theorem test_audioTick_phase_and_ramp : (ran .audioTick
    ((State.reset.setOsc 0 { phase := 629145000, inc := 6277190, lastTgt := 0, tgtValid := true, portaFrom := 0 }).withMixer
      { State.reset.mixer with loadMute := true })).map (fun t => (t.osc[0].phase, t.mixer.loadRamp))
    = some (6276590, 1022) := by decide +kernel
/-- 44_filter R243. -/
theorem test_filter_lowPass : (filterStep 2300 State.reset).1 = 2172 := by decide
/-- 43_lfo R217: the 37th tick after RESET advances the table. -/
theorem test_lfoTick_advances : (ran .lfoTick (State.reset.withLfo { State.reset.lfo with counter := 36 })).map
    (fun t => (t.lfo.counter, t.lfo.index, t.lfo.val)) = some (0, 1, 2069) := by decide
theorem test_lfoTick_counts : (ran .lfoTick (State.reset.withLfo { State.reset.lfo with counter := 35 })).map
    (fun t => (t.lfo.counter, t.lfo.index, t.lfo.val, t.ui.uiCounter)) = some (36, 0, 2048, 1) := by decide
/-- 42_envelope R188. -/
theorem test_envTick_attack : (ran .envTick ((resetAt 2500).withEnv
    { State.reset.env with stage := .attack, attack := 10000 })).map (fun t => (t.env.amp, t.env.stage))
    = some (255, .attack) := by decide
/-- 42_envelope R186: at 10 the fade is over and Attack is entered. -/
theorem test_envTick_fade : (ran .envTick (State.reset.withEnv
    { State.reset.env with stage := .sustain, trigPending := true, amp := 15 })).map (fun t => (t.env.amp, t.env.stage))
    = some (10, .sustain) ∧ (ran .envTick (State.reset.withEnv
    { State.reset.env with stage := .sustain, trigPending := true, amp := 10 })).map
      (fun t => (t.env.amp, t.env.start, t.env.stage)) = some (10, 10, .attack) := by decide
/-- 46_clock R275: the last pulse of the measure wraps. -/
theorem test_clockTick_wraps : (ran .clockTick (State.reset.withClock { State.reset.clock with pulse := 23 })).map
    (fun t => (t.clock.pulse, t.clock.eighth, t.clock.beatLed)) = some (0, 1, false) := by decide
/-- 47_sequencer R309, R311, R317: the first step of a running sequence. -/
theorem test_clockTick_plays_step : (ran .clockTick ((State.reset.withSeq { State.reset.seq with running := true }).withMem
    { State.reset.mem with seq := State.reset.mem.seq.set 0 { Sequence.cleared with
        notes := Sequence.cleared.notes.set 0 (Vector.replicate 16 (some 5)), transpose := 2 } })).map
    (fun t => (t.voices[0].note, t.voices[1].note, t.seq.step, t.seq.pendRel, t.env.stage))
    = some (some 7, none, 1, some 6, .attack) := by decide +kernel
/-! Under another legal configuration (00_scope R9) -/

/-- 10_state R38, R45 and 00_scope R9: the reset values lie in the configuration's ranges. -/
theorem test_other_reset : (otherReset.lfo.rate, otherReset.clock.div, otherReset.filter.cutoff, otherReset.filter.cutEff)
    = (50, 4, 255, 255) := by decide
/-- 40_oscillator_bank R123: the cycle is 600 × 2^16. -/
theorem test_other_phase : (advancePhase otherParams.cycle
    { phase := 39321599, inc := 2, lastTgt := 0, tgtValid := true, portaFrom := 0 }).phase = 1 := by decide
/-- 44_filter R246, R247: ten fraction bits. -/
theorem test_other_filter : (ran (.setCutoff 1000) (otherReset.withFilter { otherReset.filter with resonance := 500 })).map
    (fun t => (t.filter.cutEff, t.filter.fb)) = some (1000, 996) := by decide
/-- 40_oscillator_bank R127, R131: OCT_MIN is -1, and entry 64 + 9 - 12 of this table holds 61. -/
theorem test_other_octave : (ran (.setOctave 0 0xFFFFFFFB) (otherReset.setVoice 0
    { otherReset.voices[0] with note := some 9 })).map (fun t => (t.engines[0].octave, t.osc[0].inc)) = some (-1, 61) := by
  decide
/-- 46_clock R272, 47_sequencer R318. -/
theorem test_other_division : (ran (.setDivision 0) otherReset).map (·.clock.div) = some 96 ∧
    (ran (.seqSetParam 0 4 999) otherReset).map (·.mem.seq[0].swing) = some 100 := by decide
/-- 42_envelope R186: at 20 Attack is entered, above it the fade steps by 21. -/
theorem test_other_fade : (ran (.envTrigger 9) (otherReset.withEnv
    { otherReset.env with stage := .sustain, amp := 21 })).map (fun t => (t.env.amp, t.env.stage)) = some (0, .sustain) := by
  decide
/-- 45_waveshaper_gain R256, R258: six types exist; type 0 is the identity. -/
theorem test_other_shaper : (ran (.setShaper 5 7) otherReset).map (·.shape.shaperType) = some 5 ∧
    (ran (.setShaper 6 7) otherReset).map (·.shape.shaperType) = some 0 ∧ shaperEntry otherParams 0 1023 77 = 77 := by decide
/-- 49_voice_allocator R385: the oldest of two held keys is forgotten. -/
theorem test_other_held : pressHeld otherParams.heldCap 9 [4, 7] = [7, 9] := by decide

/-! Under the default configuration -/

theorem test_loadMute : (ran (.loadMute 7) State.reset).map (·.mixer.loadMute) = some true := by decide
theorem test_setMasterVol : (ran (.setMasterVol 0xFFFFFFFF) State.reset).map (·.mixer.masterVol) = some 1023 := by decide
theorem test_clrStatus : (ran (.clrStatus 1) (State.reset.withStatus { storageFail := true, illegalCmd := true })).map
    (·.status) = some { storageFail := false, illegalCmd := true } := by decide
theorem test_reportStoreErr : (ran .reportStoreErr State.reset).map statusWord = some 1 := by decide
theorem test_setBitmunch : (ran (.setBitmunch 12) State.reset).map (·.mixer.bitMunch) = some 11 := by decide
/-- 60_exceptions R425. -/
theorem test_outboxDrain : (ran .outboxDrain (State.reset.withOutbox { State.reset.outbox with arpOn := some (7, 100) })).map
    (fun t => (t.ports.rsp.extractLsb' 0 96, t.outbox.arpOn)) = some (0xE4070000, none) := by decide
theorem test_setWave : (ran (.setWave 1 9) State.reset).map (·.engines[1].wave) = some .noise := by decide
/-- 40_oscillator_bank R131: one octave down, 220 Hz. -/
theorem test_setOctave : (ran (.setOctave 0 0xFFFFFFFF) (State.reset.setVoice 0
    { State.reset.voices[0] with note := some 9 })).map (fun t => (t.osc[0].inc, t.osc[4].inc))
    = some (3138595, 6277190) := by decide
/-- 40_oscillator_bank R133. -/
theorem test_setVolume : (ran (.setVolume 0 512) State.reset).map (·.engines[0].volume) = some 512 ∧
    volEntry 512 4095 = 3071 ∧ volEntry 1023 0 = 2 := by decide
theorem test_setDetune : (ran (.setDetune 1 0xFFF00000) State.reset).map (·.engines[1].detune) = some (-1048575) := by
  decide
theorem test_setPw : (ran (.setPw 256) State.reset).map (fun t => (t.pw.eff, t.pw.edge)) = some (256, 150) := by decide
theorem test_writeWavetable : (ran (.writeWavetable 2 599 5000) State.reset).map
    (fun t => (t.mem.read (.user 2) 599, t.mem.read (.user 2) 598)) = some (4095, 2048) := by decide
theorem test_setAttack : (ran (.setAttack 0xFFFFFFFF) State.reset).map (·.env.attack) = some 4294967295 := by decide
theorem test_setDecay : (ran (.setDecay 0) State.reset).map (·.env.decay) = some 0 := by decide
theorem test_setSustain : (ran (.setSustain 4096) State.reset).map (·.env.sustain) = some 1023 := by decide
theorem test_setRelease : (ran (.setRelease 250000) State.reset).map (·.env.release) = some 250000 := by decide
theorem test_envTrigger : (ran (.envTrigger 100) State.reset).map
    (fun t => (t.env.stage, t.env.start, t.env.pendVel, t.env.trigPending)) = some (.attack, 0, 100, false) := by decide
theorem test_envRelease : (ran .envRelease ((resetAt 50000).withEnv { State.reset.env with stage := .sustain, amp := 700 })).map
    (fun t => (t.env.stage, t.env.start, t.env.t0)) = some (.release, 700, 50000) := by decide
theorem test_setLfoShape : (ran (.setLfoShape 1) State.reset).map (·.lfo.shape) = some .triangle := by decide
theorem test_setLfoRate : (ran (.setLfoRate 0) State.reset).map (·.lfo.rate) = some 1 := by decide
theorem test_setLfoRange : (ran (.setLfoRange 4) State.reset).map (·.lfo.range) = some 3 := by decide
theorem test_setLfoRetrig : (ran (.setLfoRetrig 2) State.reset).map (·.lfo.retrig) = some true := by decide
/-- 43_lfo R215: 18 ticks at 120 BPM on quarters. -/
theorem test_setLfoSync : (ran (.setLfoSync 2) State.reset).map lfoTarget = some 18 := by decide
theorem test_lfoSyncReset : (ran .lfoSyncReset (State.reset.withLfo
    { State.reset.lfo with index := 5, counter := 3, eighthSync := 2, val := 9 })).map
    (fun t => (t.lfo.index, t.lfo.counter, t.lfo.eighthSync, t.lfo.val)) = some (0, 0, 0, 9) := by decide
/-- 43_lfo R221, R222. -/
theorem test_setMod_pitch : (ran (.setMod 4 100) (State.reset.withLfo { State.reset.lfo with val := 4095 })).map
    (·.lfoMod.pitch[0]) = some 51175 := by decide
theorem test_setMod_cut : (ran (.setMod 6 1023) (State.reset.withLfo { State.reset.lfo with val := 0 })).map
    (fun t => (t.lfoMod.cut, t.filter.cutEff)) = some (-256, 0) := by decide
theorem test_setCutoff : (ran (.setCutoff 100) (State.reset.withEnvMod { State.reset.envMod with cut := 50 })).map
    (·.filter.cutEff) = some 150 := by decide
/-- 44_filter R246. -/
theorem test_setResonance : (ran (.setResonance 200) (State.reset.withFilter { State.reset.filter with cutoff := 100 })).map
    (·.filter.fb) = some 400 ∧ (ran (.setResonance 200) (State.reset.withFilter
      { State.reset.filter with cutoff := 200 })).map (·.filter.fb) = some 399 := by decide
theorem test_setFilterMode : (ran (.setFilterMode 3) State.reset).map (·.filter.mode) = some .highPass := by decide
theorem test_setFilterBypass : (ran (.setFilterBypass 1) State.reset).map (·.filter.bypass) = some true := by decide
/-- 45_waveshaper_gain R257. -/
theorem test_setShaper : shaperEntry Params.standard 1 1023 2348 = 4095 ∧ shaperEntry Params.standard 2 1023 3048 = 2145 ∧
    shaperEntry Params.standard 3 1023 1048 = 3046 ∧
    (ran (.setShaper 1 512) State.reset).map (·.shape.shaperAmount) = some 512 := by decide
/-- 45_waveshaper_gain R261. -/
theorem test_setGain : [2548, 3048, 1548].map (gainEntry Params.standard 512) = [3298, 4095, 798] ∧
    (ran (.setGain 5000) State.reset).map (·.shape.gainAmount) = some 1023 := by decide
theorem test_setBpm : (ran (.setBpm 500) State.reset).map (fun t => (t.clock.bpm, t.clock.periodUs)) = some (320, 1953) := by
  decide
theorem test_setDivision : (ran (.setDivision 3) (State.reset.withClock { State.reset.clock with pulse := 20 })).map
    (fun t => (t.clock.div, t.clock.pulse)) = some (6, 8) := by decide
theorem test_extClock_first : (ran .extClock (resetAt 1000)).map
    (fun t => (t.clock.receivingClock, t.clock.eighth, t.ext.extPulse, t.ext.lastExtTime, t.ext.bpmBufCount))
    = some (true, 1, 1, 1000, 0) := by decide
/-- 46_clock R284: the fifth interval of a 120 BPM clock publishes 121. -/
theorem test_extClock_publishes : (ran .extClock (((resetAt 20833).withClock
    { State.reset.clock with receivingClock := true }).withExt { State.reset.ext with
      extSeen := true, bpmBuf := Vector.replicate 24 120, bpmBufCount := 4, bpmBufIdx := 4 })).map
    (fun t => (t.clock.bpm, t.clock.periodUs)) = some (121, 5165) := by decide
theorem test_extStart : (ran .extStart (State.reset.withClock { State.reset.clock with pulse := 9, outClockPhase := 3 })).map
    (fun t => (t.seq.running, t.clock.pulse, t.clock.outClockPhase)) = some (true, 0, 0) := by decide
theorem test_extStop : (ran .extStop (State.reset.withSeq { State.reset.seq with running := true })).map
    (·.seq.running) = some false := by decide
theorem test_setMidiSync : (ran (.setMidiSync 1) (State.reset.withClock
    { State.reset.clock with receivingClock := true })).map
    (fun t => (t.clock.midiClockOut, t.clock.extSyncEnable, t.clock.receivingClock)) = some (true, false, false) := by decide
theorem test_clockPoll : (ran .clockPoll (((resetAt 301000).withClock { State.reset.clock with receivingClock := true }).withExt
    { State.reset.ext with lastExtTime := 1000 })).map (·.clock.receivingClock) = some false ∧
    (ran .clockPoll (((resetAt 300999).withClock { State.reset.clock with receivingClock := true }).withExt
    { State.reset.ext with lastExtTime := 1000 })).map (·.clock.receivingClock) = some true := by decide
theorem test_seqStart : (ran .seqStart (State.reset.withSeq { State.reset.seq with step := 4 })).map
    (fun t => (t.seq.running, t.seq.step, t.clock.pulse)) = some (true, 0, 0) := by decide
theorem test_seqStop : (ran .seqStop (State.reset.withSeq
    { State.reset.seq with running := true, step := 4, pendRel := some 3 })).map
    (fun t => (t.seq.running, t.seq.step, t.seq.pendRel)) = some (false, 4, none) := by decide
theorem test_seqSelect : (ran (.seqSelect 3) State.reset).map (·.seq.sel) = some 3 := by decide
theorem test_setPlayMode : (ran (.setPlayMode 9) State.reset).map (·.seq.playMode) = some .random := by decide
theorem test_setBankMode : (ran (.setBankMode 1) State.reset).map (·.seq.sel) = some 1 := by decide
theorem test_seqWrite : (ran (.seqWrite 0 0 2 5 7) State.reset).map
    (fun t => (t.mem.seq[0].notes[2][5], t.mem.seq[0].notes[2][6], t.mem.seq[1].notes[2][5])) = some (some 7, none, none) := by
  decide
theorem test_seqSetParam : (ran (.seqSetParam 0 2 8) (State.reset.withSeq { State.reset.seq with step := 11 })).map
    (fun t => (t.mem.seq[0].patternLength, t.seq.step)) = some (8, 3) := by decide
theorem test_seqCopy : (ran (.seqCopy 0 3) (State.reset.withMem { State.reset.mem with
    seq := State.reset.mem.seq.set 0 { Sequence.cleared with bpm := 99 } })).map
    (fun t => (t.mem.seq[3].bpm, t.seq.src, t.seq.dst)) = some (99, 0, 3) := by decide
theorem test_seqClear : (ran (.seqClear 2) (State.reset.withMem { State.reset.mem with
    seq := State.reset.mem.seq.set 2 { Sequence.cleared with bpm := 99 } })).map (·.mem.seq[2].bpm) = some 120 := by decide
theorem test_seqEdit : (ran (.seqEdit 9 1) State.reset).map (fun t => (t.seq.edit, t.seq.editStep)) = some (true, 9) := by
  decide
theorem test_arpEnable : (ran (.arpEnable 1) State.reset).map (·.arp.on) = some true := by decide
theorem test_setArpDir : (ran (.setArpDir 1) (State.reset.withArp { State.reset.arp with raw := [4, 0, 7] })).map
    (·.arp.sorted) = some [7, 0, 4] := by decide
theorem test_setArpStepMode : (ran (.setArpStepMode 4) State.reset).map (·.arp.stepMode) = some .twoForwardOneBack := by decide
theorem test_setArpOctRange : (ran (.setArpOctRange 1) (State.reset.withArp { State.reset.arp with octRange := 3, oct := 3 })).map
    (fun t => (t.arp.octRange, t.arp.oct)) = some (1, 1) := by decide
theorem test_setArpNoteDur : (ran (.setArpNoteDur 0) State.reset).map (·.arp.dur) = some 1 := by decide
theorem test_setArpSource : (ran (.setArpSource 1) (State.reset.withArp { State.reset.arp with raw := [4, 0, 7] })).map
    (·.arp.sorted) = some [0, 4, 7] := by decide
theorem test_setArpMono : (ran (.setArpMono 1) State.reset).map (·.arp.mono) = some true := by decide
/-- 48_arpeggiator R354: a list of 5 in "2 forward, 1 back" clamps at the end and starts over. -/
theorem test_arpAdvance_clamps : (arpAdvance 5 (State.reset.withArp { State.reset.arp with
    stepMode := .twoForwardOneBack, fresh := false, pos := 3 })).arp.pos = 4 := by decide
/-- 49_voice_allocator R375. -/
theorem test_keyOn : (ran (.keyOn 0xFFF4 127) State.reset).map
    (fun t => (t.voices[0].key, t.voices[0].sounding, t.voices[1].sounding, t.env.stage))
    = some (some (-12), true, false, .attack) := by decide +kernel
theorem test_keyOn_arp : (ran (.keyOn 4 90) (State.reset.withArp { State.reset.arp with on := true, raw := [7] })).map
    (fun t => (t.arp.raw, t.arp.vel, t.voices[0].key)) = some ([7, 4], 90, none) := by decide
/-- 49_voice_allocator R388: letting go of the last key of three returns to the one before. -/
theorem test_keyOff_mono : (ran (.keyOff 7) ((State.reset.withAlloc { State.reset.alloc with
    voiceMode := .monoLast, held := [0, 4, 7] }).setVoice 0 { State.reset.voices[0] with key := some 7 })).map
    (fun t => (t.voices[0].note, t.alloc.held, t.env.stage)) = some (some 4, [0, 4], .idle) := by decide +kernel
theorem test_keyOff_paraphonic : (ran (.keyOff 4) ((State.reset.setVoice 0 { State.reset.voices[0] with
    key := some 0, sounding := true }).setVoice 1 { State.reset.voices[1] with key := some 4, sounding := true })).map
    (fun t => (t.voices[1].key, t.voices[1].sounding, t.voices[0].key)) = some (none, false, some 0) := by decide +kernel
theorem test_setVoiceMode : (ran (.setVoiceMode 9) (State.reset.setVoice 0
    { State.reset.voices[0] with key := some 3 })).map (fun t => (t.alloc.voiceMode, t.voices[0].key))
    = some (.monoLast, none) := by decide +kernel
theorem test_setUnison : (ran (.setUnison 2) (State.reset.withAlloc
    { State.reset.alloc with voiceMode := .monoHighest, unisonSpread := 100 })).map (·.alloc.unisonOff)
    = some #v[0, 100, 200, 0] := by decide
theorem test_setUnisonSpread : (ran (.setUnisonSpread 20000) State.reset).map
    (fun t => (t.alloc.unisonSpread, t.alloc.unisonOff[1])) = some (20000, 0) := by decide
/-- 49_voice_allocator R380, 40_oscillator_bank R127: half of a glide. -/
theorem test_setPortamento : (ran (.setPortamento 100000) (((resetAt 50000).setVoice 0
    { State.reset.voices[0] with note := some 9, gliding := true }).setOsc 0
    { phase := 0, inc := 0, lastTgt := 0, tgtValid := true, portaFrom := 0 })).map (·.osc[0].inc) = some 3138595 := by decide
theorem test_setVoice : (ran (.setVoice 2 9) State.reset).map
    (fun t => (t.voices[2].note, t.voices[2].sounding, t.osc[2].inc, t.osc[6].inc))
    = some (some 9, true, 6277190, 6277190) := by decide +kernel
theorem test_setVoice_none : (ran (.setVoice 2 0x80000000) (State.reset.setVoice 2
    { State.reset.voices[2] with note := some 9, sounding := true })).map
    (fun t => (t.voices[2].note, t.voices[2].sounding)) = some (none, false) := by decide +kernel

/-! ## The hypotheses of the obligations can be met

One theorem for each obligation that has hypotheses: a concrete state and operands for each clause, at the bounds. -/

theorem witness_legal_reset : Inv State.reset where
  params := standard_legal
  osc := by decide
  voices := by decide
  keys := by decide
  engines := by decide
  pw := by decide
  mixer := by decide
  env := by decide
  envMod := by decide
  lfo := by decide
  lfoMod := by decide
  qVel := by decide
  vel := by decide
  matrix := by decide
  ui := by decide
  filter := by decide
  shape := by decide
  alloc := by decide
  clock := by decide
  ext := by decide
  seq := by decide
  arp := by decide
  outbox := by decide
  mem := ⟨by decide, by decide⟩
  ports := by decide

theorem witness_tables_reset : TablesMatch State.reset where
  vol := fun e x hx => by
    have h : (State.reset.mem.read (.vol e) x) = volEntry 1023 x := by fin_cases e <;> rfl
    have hv : State.reset.engines[e].volume = 1023 := by fin_cases e <;> rfl
    rw [h, hv]; rfl
  shaper := fun x hx => by
    have h : State.reset.mem.read .shaper x = BitVec.ofNat 12 x := rfl
    rw [h]; rfl
  gain := fun x hx => by
    have h : State.reset.mem.read .gain x = BitVec.ofNat 12 x := rfl
    have hg : State.reset.shape.gainAmount = 0 := rfl
    have hw : within 0 4095 (2048 + ((x : Int) - 2048) * (1024 + State.reset.params.gainSlope * 0) / 1024) = (x : Int) := by
      rw [Int.mul_zero]; unfold within; split_ifs <;> omega
    rw [h, hg, hw]; exact (BitVec.ofInt_natCast 12 x).symm

theorem witness_other_legal : otherParams.Legal :=
  { standard_legal with
    frac := by decide, incMax := by decide, notes := by decide, noteRef := by decide, incTable := by decide +kernel
    oct := by decide, detune := by decide, bitMunch := by decide, gainSlope := by decide, shaper := by decide
    ramp := by decide, click := by decide, fx := by decide, ticks := by decide, ui := by decide, heldCap := by decide
    div := by decide, swing := by decide, lfoAmp := by decide, envCut := by decide, velCut := by decide }

/-- For ResetTablesHoldListedContents: a state whose next random word is listed. -/
theorem witness_ResetTablesHoldListedContents :
    (State.reset.withInputs { State.reset.inputs with rnd := [4095#12] }).inputs.rnd = 4095#12 :: [] := by decide

/-- For StepKeepsStateLegal, NothingIsFatal and StepKeepsTablesMatched: a command that changes a table. -/
theorem witness_StepKeepsStateLegal : ∃ s t : State, Inv s ∧ TablesMatch s ∧ step s = .next t ∧ t.shape.gainAmount = 1023 :=
  ⟨State.reset.present 0x49000000000003FF#64, _,
    Inv.withInputs (witness_legal_reset.withPorts (by decide)), ⟨witness_tables_reset.vol, witness_tables_reset.shaper,
      witness_tables_reset.gain⟩, rfl, rfl⟩

theorem witness_TablesChangeOnlyByTheirOperations :
    mayStore (.writeWavetable 2 599 4095) .shaper = false ∧ mayEdit (.writeWavetable 2 599 4095) = false ∧
    (ran (.writeWavetable 2 599 4095) State.reset).isSome = true := by decide

/-- For AudioStateMovesOnlyInAudioTick and StickyBitsChangeOnlyByTheirOperations. -/
theorem witness_AudioStateMovesOnlyInAudioTick :
    (ran .envTick State.reset).isSome = true ∧ Instr.envTick ≠ .audioTick ∧ Instr.envTick ≠ .reset ∧
    Instr.envTick ≠ .reportStoreErr ∧ ∀ mask, Instr.envTick ≠ .clrStatus mask :=
  ⟨by decide, by decide, by decide, by decide, fun _ => Instr.noConfusion⟩

theorem witness_EncodeRestoresReadBits : decode 0x00FFFFFFFFFFFFFF#64 = .ok .nop := by decide

theorem witness_UndefinedOpcodeSetsIllegalCmd :
    opOf 0xFF00000000000000#64 ∉ legalOps ∧ opOf 0x0C00000000000000#64 ∉ legalOps ∧
    opOf 0x8602000080000000#64 ∈ legalOps ∧ opOf 0#64 ∈ legalOps := by decide

theorem witness_NamingNothingChangesNothing :
    2 ≤ (2#8).toNat ∧ 3 ≤ (3#8).toNat ∧ 600 ≤ (600#16).toNat ∧ 4 ≤ (4#8).toNat ∧ 17 ≤ (17#8).toNat ∧ 8 ≤ (8#8).toNat ∧
    6 ≤ (6#4).toNat ∧ 4 ≤ (4#4).toNat ∧ (5#4).toNat = 5 ∧ 6 ≤ (6#16).toNat ∧ 8 ≤ (8#16).toNat ∧
    Instr.WellFormed Params.standard (.setVoice 4 0) = false := by decide

theorem witness_StepRunsTheDecodedOperation :
    (arbitrate (accept (State.reset.present 0x0500000000000000#64))).map (·.1) = some 0x0500000000000000#64 ∧
    decode 0x0500000000000000#64 = .ok .reset ∧ decode 0x0C00000000000000#64 = .error (.illegalOp 0x0C#8) ∧
    (arbitrate (accept State.reset)).isNone = true := by decide

theorem witness_RequestsAreServedInOrder :
    let s := fun a l => (State.reset.present 0#64).withPorts { State.reset.ports with audioReq := a, strobes := l }
    (s true []).ports.audioReq = true ∧ (s false []).ports.audioReq = false ∧
    (s false [.lfo, .env, .clk]).ports.strobes = .lfo :: [.env, .clk] ∧
    (s false [.env]).ports.strobes = .env :: [] ∧ (s false [.clk]).ports.strobes = .clk :: [] ∧
    (s false []).inputs.cmdQueue = 0#64 :: [] ∧ State.reset.ports.strobes = [] ∧
    State.reset.inputs.cmdQueue = [] ∧ (s true []).inputs.arrivals = [] :: [] ∧
    State.reset.inputs.arrivals = [] := by decide

/-- For StatusWordHasListedBits and ResponseHasListedFields: full batches at the bounds of notes and velocities. -/
theorem witness_ResponseHasListedFields : ∃ s : State, Inv s ∧ s.outbox.arpOn = some (-60, 127) ∧
    s.outbox.arpOff = some 67 ∧ s.outbox.seqOn = some { notes := #v[some (-60), none, some 67, none], vel := 0 } ∧
    s.outbox.seqOff = some #v[none, some 67, none, some (-60)] :=
  ⟨State.reset.withOutbox { State.reset.outbox with
      arpOn := some (-60, 127), arpOff := some 67
      seqOn := some { notes := #v[some (-60), none, some 67, none], vel := 0 }
      seqOff := some #v[none, some 67, none, some (-60)] },
    witness_legal_reset.withOutbox (by decide), rfl, rfl, rfl, rfl⟩

theorem witness_ResponseHasListedFields_empty : Inv State.reset ∧ State.reset.outbox.arpOn = none ∧
    State.reset.outbox.arpOff = none ∧ State.reset.outbox.seqOn = none ∧ State.reset.outbox.seqOff = none :=
  ⟨witness_legal_reset, rfl, rfl, rfl, rfl⟩

/-- For LfoAndTransportSettingsAreStored, WaveAndPulseWidthAreSet, PitchAndUnisonSettingsRederive,
SetVolumeRebuildsTheVolumeTable, ShaperAndGainTablesAreRebuilt, SetModDerivesLfoOutputs and SetVoiceGivesOrTakesANote:
selectors that name something. -/
theorem witness_selectors :
    (7#8).toNat = (7 : Fin 8).val ∧ (1#8).toNat = (1 : Fin 2).val ∧ (3#8).toNat < Params.standard.nShaperType ∧
    (16#8).toNat = (16 : Fin 17).val ∧
    (3#8).toNat = (3 : Fin 4).val ∧ (9#32) ≠ 0x80000000#32 ∧ (5#8).toNat < otherParams.nShaperType ∧ 4 ≤ (5#8).toNat ∧
    ({ otherParams with shaperGen := .implementation } : Params).shaperGen ≠ .listed := by decide

theorem witness_ArpSettingsAreStoredAndSort :
    State.reset.arp.source = .frontPanel ∧ State.reset.arp.dir = .forward ∧
    (State.reset.withArp { State.reset.arp with source := .midi, dir := .backward }).arp.source = .midi ∧
    (State.reset.withArp { State.reset.arp with source := .midi, dir := .backward }).arp.dir = .backward := by decide

theorem witness_IncrementsAreDerivedFromNotes : State.reset.voices[3].note = none ∧
    (State.reset.setVoice 3 { State.reset.voices[3] with note := some 67 }).voices[3].note = some 67 := by decide

theorem witness_WriteWavetableStoresOneWord :
    State.reset.mem.wf = true ∧ (2#8).toNat = (2 : Fin 3).val ∧ (599#16).toNat < 600 := by decide

theorem witness_EnvTickEvaluatesTheStage :
    let on (st : Stage) : State := State.reset.withEnv { State.reset.env with stage := st }
    (State.reset.withEnv { State.reset.env with trigPending := true }).env.trigPending = true ∧
    (on .idle).env.trigPending = false ∧ (on .idle).env.stage = .idle ∧ (on .attack).env.stage = .attack ∧
    (on .decay).env.stage = .decay ∧ (on .sustain).env.stage = .sustain ∧ (on .release).env.stage = .release ∧
    (on .release).env.release = 0 ∧
    0 < ((on .release).withEnv { (on .release).env with release := 1 }).env.release ∧
    ((on .release).inputs.now - (on .release).env.t0).toNat < 1 := by decide

/-- For AudioTickWritesOnlyAudioState and AudioTickRunsTheWholeChain: one engine noise, one not. -/
theorem witness_AudioTickRunsTheWholeChain : ∃ s : State, Inv s ∧ s.engines[0].wave = .noise ∧ s.engines[1].wave ≠ .noise :=
  ⟨State.reset.withEngines (State.reset.engines.set 0 { State.reset.engines[0] with wave := .noise }),
    witness_legal_reset.withEngines (by decide), by decide, by decide⟩

theorem witness_SilenceStaysSilent : Inv State.reset ∧ TablesMatch State.reset ∧
    (∀ v : Fin 4, State.reset.voices[v].sounding = false) ∧ (∀ e : Fin 2, State.reset.engines[e].wave ≠ .noise) ∧
    State.reset.filter.lp0 = 0 ∧ State.reset.filter.lp1 = 0 ∧ State.reset.shape.shaperType = 0 ∧
    Params.standard.shaperGen = .listed ∧
    (State.reset.withShape { State.reset.shape with shaperType := 3 }).shape.shaperType < 4 :=
  ⟨witness_legal_reset, witness_tables_reset, by decide, by decide, rfl, rfl, rfl, rfl, by decide⟩

theorem witness_LfoTickCountsAndAdvances :
    (Inv State.reset ∧ (State.reset.lfo.counter : Int) + 1 < within 1 37 (37 - 0 - 0)) ∧
    ∃ s : State, Inv s ∧ s.lfo.rate = 37 ∧ s.envMod.rate = 0 ∧ s.vel.rate = 0 ∧ s.lfo.sync = .free ∧
      within 1 37 (37 - 0 - 0) ≤ (s.lfo.counter : Int) + 1 :=
  ⟨⟨witness_legal_reset, by decide⟩, State.reset.withLfo { State.reset.lfo with counter := 36 },
    witness_legal_reset.withLfo (by decide), rfl, rfl, rfl, rfl, by decide⟩

theorem witness_ExtClockLocksPhaseAndTempo : State.reset.clock.extSyncEnable = true ∧
    (State.reset.withClock { State.reset.clock with extSyncEnable := false }).clock.extSyncEnable = false := by decide

theorem witness_ClockTickDispatchesAndAdvances :
    (Inv State.reset ∧ State.reset.arp.on = false ∧ State.reset.seq.running = false) ∧
    (∃ s : State, Inv s ∧ s.arp.on = true) ∧ ∃ s : State, Inv s ∧ s.arp.on = false ∧ s.seq.running = true :=
  ⟨⟨witness_legal_reset, rfl, rfl⟩,
    ⟨State.reset.withArp { State.reset.arp with on := true }, witness_legal_reset.withArp (by decide), rfl⟩,
    ⟨State.reset.withSeq { State.reset.seq with running := true }, witness_legal_reset.withSeq (by decide), rfl, rfl⟩⟩

theorem witness_FreePlayReleasesHangingNotesOnce : State.reset.clock.freeLatch = false ∧
    (State.reset.withClock { State.reset.clock with freeLatch := true }).clock.freeLatch = true := by decide

/-- For BankModeCuesTheNextSequence: every mode of SET_BANK_MODE. -/
theorem witness_BankModeCuesTheNextSequence :
    [0#32, 1, 2, 3, 4].map (fun d => (ran (.setBankMode d) State.reset).map (·.seq.bankMode)) =
      [some .none, some .loop2, some .loop4, some .loop8, some .random] := by decide +kernel

theorem witness_SeqWriteEditsOneField :
    (7#8).toNat = (7 : Fin 8).val ∧ (0#4).toNat = 0 ∧ (1#4).toNat = 1 ∧ (2#4).toNat = 2 ∧ (3#4).toNat = 3 ∧
    (4#4).toNat = 4 ∧ (5#4).toNat = 5 ∧ (3#4).toNat = (3 : Fin 4).val ∧ 4 ≤ (15#4).toNat ∧ 6 ≤ (6#4).toNat := by decide

theorem witness_SequenceEditsKeepTheStepInside :
    (0#8).toNat = (0 : Fin 8).val ∧ (7#16).toNat = (7 : Fin 8).val ∧ (0#16).toNat = 0 ∧ (1#16).toNat = 1 ∧
    (2#16).toNat = 2 ∧ (3#16).toNat = 3 ∧ (4#16).toNat = 4 ∧ (5#16).toNat = 5 ∧ 6 ≤ (6#16).toNat := by decide

/-- For SequencerStepAdvancesThePattern: a legal state in each play mode, at step 0 and away from it. -/
theorem witness_SequencerStepAdvancesThePattern (m : PlayMode) (n : Fin 16) :
    ∃ s : State, Inv s ∧ s.seq.playMode = m ∧ s.seq.step = n.val :=
  ⟨State.reset.withSeq { State.reset.seq with playMode := m, step := n.val },
    witness_legal_reset.withSeq ⟨n.isLt, by rintro _ ⟨⟩, .inl rfl, by show (1 : Int) ≤ 1 ∧ (1 : Int) ≤ 15; decide⟩, rfl, rfl⟩

theorem witness_StepPlayAssignsTriggersAndEchoes : 0 < State.reset.clock.div ∧
    (∀ v : Fin 4, (State.reset.mem.seq[0].notes[v][0] : Option Note) = none) ∧
    (({ Sequence.cleared with notes := Sequence.cleared.notes.set 3 (Vector.replicate 16 (some (-60))) } :
      Sequence).notes[3][15] : Option Note) ≠ none := by decide

theorem witness_ArpEnableSwitchesAndClears :
    (0#32 ≠ 0#32 ↔ State.reset.arp.on = true) ∧ (1#32 : DataField) ≠ 0 ∧ State.reset.arp.on = false ∧
    (State.reset.withArp { State.reset.arp with on := true }).arp.on = true := by decide

theorem witness_ArpKeysKeepTheHeldList :
    let s := fun l : List Note => State.reset.withArp { State.reset.arp with on := true, raw := l }
    (s []).arp.on = true ∧ within (-60) 67 (67#16).toInt ∈ (s [5, 67, 8]).arp.raw ∧
    within (-60) 67 (67#16).toInt ∉ (s []).arp.raw ∧ (s []).arp.raw.length ≠ 10 ∧
    within (-60) 67 (67#16).toInt ∉ (s (List.replicate 10 1)).arp.raw ∧ (s (List.replicate 10 1)).arp.raw.length = 10 ∧
    (s [5, 67, 8]).arp.raw = [5] ++ within (-60) 67 (67#16).toInt :: [8] ∧ within (-60) 67 (67#16).toInt ∉ [(5 : Note)] := by
  decide

theorem witness_ArpPositionAdvancesByStepMode :
    let s := fun m a => State.reset.withArp { State.reset.arp with stepMode := m, fresh := false, back := a, pos := 3 }
    0 < 5 ∧ (s .step1 false).arp.stepMode = .step1 ∧ (s .random false).arp.stepMode = .random ∧
    (s .twoForwardOneBack true).arp.back = true ∧ (s .twoForwardOneBack false).arp.fresh = false ∧
    min (s .twoForwardOneBack false).arp.pos (6 - 1) + 2 ≤ 6 - 1 ∧
    5 - 1 < min (s .twoForwardOneBack false).arp.pos (5 - 1) + 2 ∧ State.reset.arp.fresh = true := by decide

/-- For ArpStepPlaysTheNextNote: a step that plays a note, in and outside mono-arp mode, and one that finds none. -/
theorem witness_ArpStepPlaysTheNextNote :
    let s := fun m l => State.reset.withArp { State.reset.arp with mono := m, raw := [4, 7], sorted := l }
    let m := fun s : State => arpAdvance s.arp.raw.length (s.withArp
      (if s.arp.pos = 0 then { s.arp with oct := (s.arp.oct + 1) % (s.arp.octRange + 1) } else s.arp))
    (m (s false [4, 7])).arp.sorted[(m (s false [4, 7])).arp.pos]? = some 7 ∧ (s true [4, 7]).arp.mono = true ∧
    (s false [4, 7]).arp.mono = false ∧ (m (s false [4])).arp.sorted[(m (s false [4])).arp.pos]? = none ∧
    State.reset.alloc.unisonCount < (1 : Fin 4).val := by decide

theorem witness_SetVoiceModeLetsGoOfHeldKeys :
    [VoiceMode.paraphonic, .monoHighest, .monoLowest, .monoLast].getD (min 3 (0#32).toNat) .monoLast
      = State.reset.alloc.voiceMode ∧
    [VoiceMode.paraphonic, .monoHighest, .monoLowest, .monoLast].getD (min 3 (3#32).toNat) .monoLast
      ≠ State.reset.alloc.voiceMode := by decide

/-- For ParaphonicKeyOnTakesTheLowestFreeVoice and ParaphonicKeyOffFreesTheVoice: no key, some keys, all keys held. -/
theorem witness_ParaphonicKeys :
    let s := fun a b c d : Option Note => State.reset.withVoices (Vector.ofFn fun v : Fin 4 =>
      { State.reset.voices[v] with key := #v[a, b, c, d][v] })
    (s none none none none).arp.on = false ∧ (s none none none none).alloc.voiceMode = .paraphonic ∧
    (s none none none none).seq.edit = false ∧ KeysDistinct (s none none none none).voices ∧
    KeysDistinct (s (some 0) none (some 67) none).voices ∧ KeysDistinct (s (some 0) (some 1) (some 2) (some 3)).voices ∧
    (s (some 0) none (some 67) none).voices[2].key = some (within (-60) 67 (67#16).toInt) ∧
    (∀ u : Fin 4, (s (some 0) (some 1) (some 2) (some 3)).voices[u].key ≠ some 67 ∧
      (s (some 0) (some 1) (some 2) (some 3)).voices[u].key ≠ none) ∧
    (s (some 0) none (some 1) none).voices[1].key = none ∧
    (∀ u : Fin 4, (s (some 0) none (some 1) none).voices[u].key ≠ some 67) ∧
    (∀ u : Fin 4, u < 1 → (s (some 0) none (some 1) none).voices[u].key ≠ none) ∧
    (∃ u : Fin 4, u ≠ 2 ∧ (s (some 0) none (some 67) none).voices[u].key ≠ none) ∧
    ∀ u : Fin 4, u ≠ 0 → (s (some 67) none none none).voices[u].key = none := by decide +kernel

/-- For MonoKeysFollowThePriority: a key that wins and one that does not, a key that is held and one that is not. -/
theorem witness_MonoKeysFollowThePriority :
    let s := State.reset.withAlloc { State.reset.alloc with voiceMode := .monoHighest, held := [0, 4] }
    s.arp.on = false ∧ s.alloc.voiceMode ≠ .paraphonic ∧ s.seq.edit = false ∧
    (s.withSeq { s.seq with edit := true }).seq.edit = true ∧ s.alloc.held.Nodup ∧
    s.alloc.held.length ≤ s.params.heldCap ∧ within (-60) 67 (7#16).toInt ∉ s.alloc.held ∧ (∀ y ∈ [0, 4, (7 : Note)], y ≤ 7) ∧
    ¬ (∀ y ∈ [0, 4, (1 : Note)], y ≤ 1) ∧ within (-60) 67 (4#16).toInt ∈ s.alloc.held ∧
    s.alloc.held.filter (· ≠ 4) = [0] ∧ [(4 : Note)].filter (· ≠ 4) = [] ∧ 0 ≤ s.alloc.unisonCount ∧
    s.alloc.unisonCount < (3 : Fin 4).val := by decide

theorem witness_EditModeCapturesHeldNotes :
    (State.reset.withSeq { State.reset.seq with edit := true }).arp.on = false ∧
    (State.reset.withSeq { State.reset.seq with edit := true }).seq.edit = true := by decide

end Sys2Proof.Machine
end

section
/-! PROOFS. What the tables and the configuration hold after reset, and what a read of each wave gives (20_memory R72 to
R80, 70_reset_and_hazards R444). -/

namespace Sys2Proof.Machine

/-! ## The built-in sine (20_memory R74) -/

/-- The half wave up to 300 reads the same from both ends. -/
theorem sineTable_half_palindrome : (sineTable.take 301).reverse = sineTable.take 301 := by decide +kernel

/-- What entries `i` and `600 - i` sum to: twice the centre, but where the rounding of R74 breaks the symmetry. -/
abbrev sinePairSum (i : Nat) : Int := if i = 50 ∨ i = 250 ∨ i = 350 ∨ i = 550 then 4097 else 4096

/-- Read from its end, the wave from entry 1 on is its own mirror image about the centre. -/
theorem sineTable_tail_mirror :
    sineTable.tail.reverse = List.zipWith (fun i x => sinePairSum i - x) (List.range' 1 599) sineTable.tail := by
  decide +kernel

theorem sineTable_length : sineTable.length = 600 := by decide +kernel

/-- The half wave up to 300 is symmetric about the crest at 150. -/
theorem sineTable_crest_symmetric {i : Nat} (hi : i ≤ 300) : sineTable.getD (300 - i) 0 = sineTable.getD i 0 := by
  have hlen : (sineTable.take 301).length = 301 := by rw [List.length_take, sineTable_length]; rfl
  have hget : ∀ j ≤ 300, sineTable[j]? = (sineTable.take 301)[j]? := fun j hj =>
    (List.getElem?_take_of_lt (Nat.lt_succ_of_le hj)).symm
  have hrev := List.getElem?_reverse (l := sineTable.take 301) (i := i) (by omega)
  rw [sineTable_half_palindrome, hlen, Nat.add_sub_cancel 300 1] at hrev
  rw [List.getD_eq_getElem?_getD, List.getD_eq_getElem?_getD, hget _ (Nat.sub_le ..), hget i hi, hrev]

/-- The wave is odd about its zero crossing at 300, but where the rounding of R74 breaks it. -/
theorem sineTable_odd {i : Nat} (h1 : 1 ≤ i) (hi : i < 600) :
    sineTable.getD (600 - i) 0 = sinePairSum i - sineTable.getD i 0 := by
  obtain ⟨j, rfl⟩ : ∃ j, i = j + 1 := ⟨i - 1, by omega⟩
  have hlen : sineTable.tail.length = 599 := by rw [List.length_tail, sineTable_length]
  have hrev := List.getElem?_reverse (l := sineTable.tail) (i := j) (by omega)
  rw [sineTable_tail_mirror, hlen, List.getElem?_zipWith, List.getElem?_range' (by omega), List.getElem?_tail,
    List.getElem?_tail, show 599 - 1 - j + 1 = 600 - (j + 1) by omega,
    List.getElem?_eq_getElem (show j + 1 < sineTable.length by rw [sineTable_length]; exact hi)] at hrev
  rw [List.getD_eq_getElem?_getD, List.getD_eq_getElem _ _ (by rw [sineTable_length]; exact hi), ← hrev]
  simp [Nat.add_comm]

/-! ## What a read of a wave gives (20_memory R72, R73, R75) -/

theorem builtIn_eq_some (f : Int → Int) {i : Nat} (hi : i < 600) : builtIn f (i : Int) = some (f i) :=
  if_pos ⟨by omega, by simp only [Config.tableLen]; omega⟩

theorem wtRead_sine {i : Nat} (hi : i < 600) (s : State) : wtRead .sine (i : Int) s = some (sineTable.getD i 0, s) := by
  rw [wtRead, builtIn_eq_some _ hi, Option.map_some, Int.toNat_natCast]

theorem wtRead_triangle {i : Nat} (hi : i < 600) (s : State) :
    wtRead .triangle (i : Int) s =
      some (if i ≤ 300 then (i : Int) * 4095 / 300 else (600 - (i : Int)) * 4095 / 300, s) := by
  have hle : (i : Int) ≤ 300 ↔ i ≤ 300 := by omega
  simp only [wtRead, builtIn_eq_some _ hi, Option.map_some, triangleEntry, hle]

theorem wtRead_saw {i : Nat} (hi : i < 600) (s : State) : wtRead .saw (i : Int) s = some (sawEntry i, s) := by
  rw [wtRead, builtIn_eq_some _ hi, Option.map_some]

theorem wtRead_square (i : Int) (s : State) : wtRead .square i s = some (squareEntry s.pw.edge i, s) := rfl

/-- MemRead of a user wave inside its table. -/
theorem memRead_user (u : Fin 3) {i : Nat} (hi : i < 600) (s : State) :
    memRead (.user u) (i : Int) s = some ((s.mem.read (.user u) i).toNat : Int) := by
  rw [memRead_eq_some (by omega) (by simp only [Space.size, Config.tableLen]; omega), Int.toNat_natCast]

theorem wtRead_user1 {i : Nat} (hi : i < 600) (s : State) :
    wtRead .user1 (i : Int) s = some (((s.mem.read (.user 0) i).toNat : Int), s) := by
  rw [wtRead, memRead_user 0 hi, Option.map_some]

theorem wtRead_user2 {i : Nat} (hi : i < 600) (s : State) :
    wtRead .user2 (i : Int) s = some (((s.mem.read (.user 1) i).toNat : Int), s) := by
  rw [wtRead, memRead_user 1 hi, Option.map_some]

theorem wtRead_user3 {i : Nat} (hi : i < 600) (s : State) :
    wtRead .user3 (i : Int) s = some (((s.mem.read (.user 2) i).toNat : Int), s) := by
  rw [wtRead, memRead_user 2 hi, Option.map_some]

/-- Every word of RND is a sample, so the draw of a sample is the word itself (log 5). -/
theorem drawValue_sample (w : Sample) : drawValue 0 Config.sampleMax w = (w.toNat : Int) := if_pos (sample_isSample w)

theorem wtRead_noise (i : Int) (s : State) :
    wtRead .noise i s = some ((s.inputs.rndWord.toNat : Int), s.withInputs s.inputs.afterDraw) := by
  rw [wtRead, draw, drawValue_sample]

theorem rndWord_of_listed {x : Inputs} {w : Sample} {rest : List Sample} (h : x.rnd = w :: rest) : x.rndWord = w := by
  rw [Inputs.rndWord, h]

theorem afterDraw_eq_drop (x : Inputs) :
    x.afterDraw = { x with rnd := x.rnd.drop 1, drawCount := x.drawCount + 1 } := by
  rw [Inputs.afterDraw, List.drop_one]

/-! ## The tables after reset (20_memory R76 to R80, 70_reset_and_hazards R444) -/

/-- After reset no table memory lists a word. -/
theorem reset_table_eq_nil (T : Space) : State.reset.mem.table T = [] := by
  cases T with
  | user u => exact Vector.getElem_replicate u.isLt
  | vol e => exact Vector.getElem_replicate e.isLt
  | shaper => rfl
  | gain => rfl

theorem reset_read (T : Space) (a : Nat) : State.reset.mem.read T a = T.unlisted a := by
  rw [Memory.read, reset_table_eq_nil]; rfl

/-- The word of volume 1023 is the centred multiply, without loss (20_memory R80). -/
theorem volEntry_full_toNat {x : Nat} (hx : x < 4096) :
    ((volEntry 1023 x).toNat : Int) = 2048 + ((x : Int) - 2048) * 1023 / 1024 :=
  ofInt_sample (cmul_isSample ⟨by omega, by omega⟩ ⟨by decide, by decide⟩)

theorem reset_seq (q : Fin 8) : State.reset.mem.seq[q] = Sequence.cleared := Vector.getElem_replicate q.isLt

/-! ## The obligation -/

/-- Settles O2: the sine, INC_TABLE and the cleared Sequence are finite lists and are compared with the listed ones; the
reads of the waves and of the tables after reset follow from their rules above. -/
theorem resetTablesHoldListedContents : Obligations.ResetTablesHoldListedContents := by
  refine ⟨⟨sineTable_length, by decide +kernel, by decide +kernel, fun i hi => sineTable_crest_symmetric hi,
      fun i h1 hi => sineTable_odd h1 hi⟩,
    ⟨rfl, by decide +kernel, rfl, rfl, rfl⟩, fun s i hi => ?reads, fun u i _ => ?user, fun e x hx => ?vol,
    fun x hx => ?lookup, fun q => ?seq⟩
  case reads =>
    obtain ⟨hx0, hx1⟩ := sample_isSample s.inputs.rndWord
    refine ⟨wtRead_sine hi s, wtRead_triangle hi s, wtRead_saw hi s, wtRead_square i s, wtRead_user1 hi s,
      wtRead_user2 hi s, wtRead_user3 hi s, _, hx0, hx1, fun w rest h => ?_, ?_⟩
    · rw [rndWord_of_listed h]
    · rw [wtRead_noise, afterDraw_eq_drop]
  case user => exact reset_read (.user u) i
  case vol => rw [reset_read]; exact volEntry_full_toNat hx
  case lookup =>
    have hword : (BitVec.ofNat 12 x).toNat = x := (BitVec.toNat_ofNat x 12).trans (Nat.mod_eq_of_lt hx)
    exact ⟨by rw [reset_read]; exact hword, by rw [reset_read]; exact hword⟩
  case seq => rw [reset_seq]; decide

end Sys2Proof.Machine
end

section
/-! PROOFS. The STATUS word (10_state R52): what each of its bits reads, and the operations that set and clear the sticky
bits (60_exceptions R411, R412, R414). -/

namespace Sys2Proof.Machine

/-! ## The bits of STATUS (10_state R52) -/

/-- STATUS as its bits, from bit 5 down to bit 0, below the two reserved ones. -/
theorem statusWord_eq_concat (s : State) :
    statusWord s =
      ((((((0#2).concat (liveEnvActive s)).concat (liveLoadMuted s)).concat (liveTrigPending s)).concat
        (liveReceivingClock s)).concat s.status.illegalCmd).concat s.status.storageFail := rfl

theorem statusWord_storageFail (s : State) : (statusWord s).getLsbD 0 = s.status.storageFail := by
  rw [statusWord_eq_concat, BitVec.getLsbD_concat_zero]

theorem statusWord_illegalCmd (s : State) : (statusWord s).getLsbD 1 = s.status.illegalCmd := by
  simp only [statusWord_eq_concat, BitVec.getLsbD_concat_succ, BitVec.getLsbD_concat_zero]

theorem statusWord_receivingClock (s : State) : (statusWord s).getLsbD 2 = s.clock.receivingClock := by
  simp only [statusWord_eq_concat, BitVec.getLsbD_concat_succ, BitVec.getLsbD_concat_zero, liveReceivingClock]

theorem statusWord_trigPending (s : State) : (statusWord s).getLsbD 3 = s.env.trigPending := by
  simp only [statusWord_eq_concat, BitVec.getLsbD_concat_succ, BitVec.getLsbD_concat_zero, liveTrigPending]

theorem statusWord_loadMuted_iff (s : State) :
    (statusWord s).getLsbD 4 = true ↔ s.mixer.loadMute = true ∧ s.mixer.loadRamp = 0 := by
  simp only [statusWord_eq_concat, BitVec.getLsbD_concat_succ, BitVec.getLsbD_concat_zero, liveLoadMuted,
    Bool.and_eq_true, decide_eq_true_eq]

theorem statusWord_envActive_iff (s : State) : (statusWord s).getLsbD 5 = true ↔ s.env.stage ≠ .idle := by
  simp only [statusWord_eq_concat, BitVec.getLsbD_concat_succ, BitVec.getLsbD_concat_zero, liveEnvActive,
    decide_eq_true_eq]

theorem statusWord_reserved (s : State) {i : Nat} (hi : 6 ≤ i) : (statusWord s).getLsbD i = false := by
  obtain ⟨j, rfl⟩ := Nat.exists_eq_add_of_le' hi
  simp only [statusWord_eq_concat, BitVec.getLsbD_concat_succ, BitVec.getLsbD_zero]

/-! ## The operations on the sticky bits (60_exceptions R411, R412, R414) -/

theorem exec_reportStoreErr (s : State) :
    exec .reportStoreErr s = .next (s.withStatus { s.status with storageFail := true }) := rfl

theorem exec_clrStatus (mask : DataField) (s : State) : exec (.clrStatus mask) s = .next (clearSticky mask s) := rfl

/-- The mask that selects both sticky bits leaves neither. -/
theorem clearSticky_both (s : State) :
    clearSticky 3 s = s.withStatus { storageFail := false, illegalCmd := false } := by
  simp [clearSticky]

/-! ## Words with no defined operation code (30_encoding R109) -/

/-- Every operation code that the decoder accepts is one that R102 lists. -/
theorem opOf_mem_legalOps_of_decode {w : CmdWord} {i : Instr} (h : decode w = .ok i) : opOf w ∈ legalOps := by
  unfold decode at h
  split at h <;> cases h
  all_goals next hop => rw [hop]; decide

/-- A word with no defined operation code sets ILLEGAL_CMD and changes nothing else. -/
theorem runWord_undefined {w : CmdWord} (h : opOf w ∉ legalOps) (s : State) :
    runWord w s = .next (s.withStatus { s.status with illegalCmd := true }) := by
  cases hd : decode w with
  | ok i => exact absurd (opOf_mem_legalOps_of_decode hd) h
  | error e => rw [runWord, hd]; rfl

/-! ## The obligation -/

/-- Settles O18: each bit reads as its rule above says; the setters and CLR_STATUS give states whose sticky bits are
written out. -/
theorem statusWordHasListedBits : Obligations.StatusWordHasListedBits := by
  refine ⟨rfl, fun s => ⟨statusWord_storageFail s, statusWord_illegalCmd s, statusWord_receivingClock s,
    statusWord_trigPending s, statusWord_loadMuted_iff s, statusWord_envActive_iff s, statusWord_reserved s (by decide),
    statusWord_reserved s (by decide), ?report, fun w hw => ?undefined, ?clear⟩⟩
  case report => exact ⟨_, exec_reportStoreErr s, statusWord_storageFail _⟩
  case undefined => exact ⟨_, runWord_undefined hw s, statusWord_illegalCmd _⟩
  case clear =>
    refine ⟨_, exec_clrStatus 3 s, ?_⟩
    rw [clearSticky_both]
    exact ⟨statusWord_storageFail _, statusWord_illegalCmd _⟩

end Sys2Proof.Machine
end

section
/-! PROOFS. The decoder and the encoder against the columns of 30_encoding R102: which codes are defined (R109), and
which bits of a word its operation reads (R103). -/

namespace Sys2Proof.Machine

/-! ## Which words decode (30_encoding R102, R109) -/

/-- Operation codes compare as numbers. -/
theorem mem_legalOps_iff_toNat {op : OpField} : op ∈ legalOps ↔ op.toNat ∈ legalOps.map BitVec.toNat :=
  (List.mem_map_of_injective fun _ _ => BitVec.eq_of_toNat_eq).symm

/-- The converse of `opOf_mem_legalOps_of_decode`: the decoder's default branch takes no listed code. -/
theorem exists_decode_of_mem_legalOps {w : CmdWord} (h : opOf w ∈ legalOps) : ∃ i, decode w = .ok i := by
  unfold decode
  split
  case h_69 => simp_all [legalOps]
  all_goals exact ⟨_, rfl⟩

theorem runWord_of_decode {w : CmdWord} {i : Instr} (h : decode w = .ok i) (s : State) : runWord w s = exec i s := by
  rw [runWord, h]

/-- Settles O13: the ranges of R109 are compared with the listed codes number by number; a word with a listed code
decodes, and any other word runs as `runWord_undefined` says. -/
theorem undefinedOpcodeSetsIllegalCmd : Obligations.UndefinedOpcodeSetsIllegalCmd := by
  refine ⟨fun op => ?codes, fun w s => ⟨fun h => runWord_undefined h s, fun h => ?defined⟩⟩
  case codes =>
    have hop := op.isLt
    rw [mem_legalOps_iff_toNat]
    generalize op.toNat = n at hop ⊢
    revert n
    decide +kernel
  case defined =>
    obtain ⟨i, hi⟩ := exists_decode_of_mem_legalOps h
    exact ⟨i, hi, runWord_of_decode hi s⟩

/-! ## The fields of a masked word (30_encoding R101, R103) -/

@[simp] theorem opOf_and (x y : CmdWord) : opOf (x &&& y) = opOf x &&& opOf y := BitVec.extractLsb'_and
@[simp] theorem selOf_and (x y : CmdWord) : selOf (x &&& y) = selOf x &&& selOf y := BitVec.extractLsb'_and
@[simp] theorem addrOf_and (x y : CmdWord) : addrOf (x &&& y) = addrOf x &&& addrOf y := BitVec.extractLsb'_and
@[simp] theorem dataOf_and (x y : CmdWord) : dataOf (x &&& y) = dataOf x &&& dataOf y := BitVec.extractLsb'_and

/-- Every mask keeps the operation code. -/
theorem opOf_and_readMask (w : CmdWord) (op : OpField) : opOf (w &&& readMask op) = opOf w := by
  rw [opOf_and, readMask, opOf_packWord]; exact BitVec.and_allOnes

/-- A masked word, field by field. -/
theorem and_readMask (w : CmdWord) (op : OpField) :
    w &&& readMask op =
      packWord (opOf w) (selOf w &&& selOf (readMask op)) (addrOf w &&& addrOf (readMask op))
        (dataOf w &&& dataOf (readMask op)) := by
  rw [← packWord_fields (w &&& readMask op), opOf_and_readMask, selOf_and, addrOf_and, dataOf_and]

@[simp] theorem sel_and_full (sel : SelField) : sel &&& 0xFF#8 = sel := BitVec.and_allOnes
@[simp] theorem addr_and_full (addr : AddrField) : addr &&& 0xFFFF#16 = addr := BitVec.and_allOnes
@[simp] theorem data_and_full (data : DataField) : data &&& 0xFFFFFFFF#32 = data := BitVec.and_allOnes

/-! ## The parts of ADDR (30_encoding R108, 47_sequencer R334) -/

/-- SEQ_WRITE's three parts are the low twelve bits of ADDR. -/
theorem packSeqAddr_parts (addr : AddrField) :
    packSeqAddr (seqFieldOf addr) (seqSubOf addr) (stepOf addr) = addr &&& 0x0FFF#16 := by
  apply BitVec.eq_of_getLsbD_eq
  intro i hi
  simp only [packSeqAddr, seqFieldOf, seqSubOf, stepOf, BitVec.getLsbD_append, BitVec.getLsbD_extractLsb',
    BitVec.getLsbD_and]
  interval_cases i <;> simp

/-- SEQ_EDIT's step is the low four bits of ADDR. -/
theorem packSeqAddr_step (addr : AddrField) : packSeqAddr 0#4 0#4 (stepOf addr) = addr &&& 0x000F#16 := by
  apply BitVec.eq_of_getLsbD_eq
  intro i hi
  simp only [packSeqAddr, stepOf, BitVec.getLsbD_append, BitVec.getLsbD_extractLsb', BitVec.getLsbD_and]
  interval_cases i <;> simp

theorem seqFieldOf_and_parts (addr : AddrField) : seqFieldOf (addr &&& 0x0FFF#16) = seqFieldOf addr := by
  rw [← packSeqAddr_parts, seqFieldOf_packSeqAddr]
theorem seqSubOf_and_parts (addr : AddrField) : seqSubOf (addr &&& 0x0FFF#16) = seqSubOf addr := by
  rw [← packSeqAddr_parts, seqSubOf_packSeqAddr]
theorem stepOf_and_parts (addr : AddrField) : stepOf (addr &&& 0x0FFF#16) = stepOf addr := by
  rw [← packSeqAddr_parts, stepOf_packSeqAddr]
theorem stepOf_and_step (addr : AddrField) : stepOf (addr &&& 0x000F#16) = stepOf addr := by
  rw [← packSeqAddr_step, stepOf_packSeqAddr]

/-! ## The decoder reads the bits of the mask and the encoder writes them -/

/-- The decoder reads no bit outside the mask: each of its branches takes fields that the mask of its code keeps. -/
theorem decode_and_readMask (w : CmdWord) : decode (w &&& readMask (opOf w)) = decode w := by
  unfold decode
  rw [opOf_and_readMask]
  split
  case h_69 => rfl
  all_goals next hop =>
    simp [hop, readMask, seqFieldOf_and_parts, seqSubOf_and_parts, stepOf_and_parts, stepOf_and_step]

/-- The encoder writes back every bit inside the mask and zero elsewhere, branch by branch of the decoder. -/
theorem encode_of_decode {w : CmdWord} {i : Instr} (h : decode w = .ok i) : encode i = w &&& readMask (opOf w) := by
  rw [and_readMask]
  unfold decode at h
  split at h <;> cases h
  all_goals next hop => simp [encode, hop, readMask, packSeqAddr_parts, packSeqAddr_step]

/-- Settles O11: the two facts above. -/
theorem encodeRestoresReadBits : Obligations.EncodeRestoresReadBits :=
  fun w => ⟨(decode_and_readMask w).symm, fun _ h => encode_of_decode h⟩

end Sys2Proof.Machine
end

section
/-! PROOFS. Operations that name nothing (30_encoding R106, R110): an operation that is not well-formed finds no engine,
table, slot, voice, sequence, field or parameter, and answers the state as it is. -/

namespace Sys2Proof.Machine

/-! ## What the check of well-formedness refuses -/

theorem selBelow_eq_false {n : Nat} {sel : SelField} : selBelow n sel = false ↔ n ≤ sel.toNat := by
  rw [selBelow, decide_eq_false_iff_not, Nat.not_lt]

theorem addrBelow_eq_false {n : Nat} {addr : AddrField} : addrBelow n addr = false ↔ n ≤ addr.toNat := by
  rw [addrBelow, decide_eq_false_iff_not, Nat.not_lt]

theorem selOperand_of_not_below {n : Nat} {sel : SelField} (h : selBelow n sel = false) : selOperand n sel = none :=
  selOperand_eq_none.2 (selBelow_eq_false.1 h)

theorem addrOperand_of_not_below {n : Nat} {addr : AddrField} (h : addrBelow n addr = false) :
    addrOperand n addr = none :=
  addrOperand_eq_none.2 (addrBelow_eq_false.1 h)

/-- A field beyond 5 does not exist, and fields 0, 4 and 5 have sub-indices 0 to 3 only (30_encoding R108). -/
theorem seqFieldExists_eq_false {field sub : BitVec 4} :
    seqFieldExists field sub = false ↔
      6 ≤ field.toNat ∨ (4 ≤ sub.toNat ∧ (field.toNat = 0 ∨ field.toNat = 4 ∨ field.toNat = 5)) := by
  unfold seqFieldExists
  split
  case h_1 | h_5 | h_6 => rw [decide_eq_false_iff_not]; omega
  case h_2 | h_3 | h_4 => exact ⟨nofun, fun _ => by omega⟩
  case h_7 h0 h1 h2 h3 h4 h5 =>
    rw [imp_false] at h0 h1 h2 h3 h4 h5
    exact ⟨fun _ => Or.inl (by omega), fun _ => rfl⟩

/-- SEQ_WRITE has no effect on a record where the field or the sub-index does not exist. -/
theorem writeField_of_not_exists {field sub : BitVec 4} (h : seqFieldExists field sub = false) (p : Params)
    (S : Sequence) (t : Fin 16) (data : DataField) : writeField p S field sub t data = none := by
  rw [seqFieldExists_eq_false] at h
  unfold writeField
  split
  case h_1 | h_5 | h_6 => rw [subOperand_eq_none.2 (by omega), Option.map_none]
  case h_2 | h_3 | h_4 => omega
  case h_7 => rfl

theorem writeParam_of_not_below {k : Nat} (h : 6 ≤ k) (p : Params) (S : Sequence) (data : DataField) :
    writeParam p S k data = none := by
  unfold writeParam
  split
  case h_7 => rfl
  all_goals omega

/-! ## Running an operation that is not well-formed -/

/-- An operation that is not well-formed changes nothing: one of its operands names nothing. -/
theorem exec_of_not_wellFormed {i : Instr} {s : State} (h : i.WellFormed s.params = false) : exec i s = .next s := by
  cases i with
  | setWave sel data => rw [exec, execSetWave, selOperand_of_not_below h]; rfl
  | setOctave sel data => rw [exec, execSetOctave, selOperand_of_not_below h]; rfl
  | setVolume sel data => rw [exec, execSetVolume, selOperand_of_not_below h]; rfl
  | setDetune sel data => rw [exec, execSetDetune, selOperand_of_not_below h]; rfl
  | setMod sel data => rw [exec, execSetMod, selOperand_of_not_below h]; rfl
  | setVoice sel data => rw [exec, execSetVoice, selOperand_of_not_below h]; rfl
  | seqSelect sel => rw [exec, execSeqSelect, selOperand_of_not_below h]; rfl
  | seqClear sel => rw [exec, execSeqClear, selOperand_of_not_below h]; rfl
  | setShaper sel data =>
    have ht : shaperTypeOperand s.params sel = none := if_neg (Nat.not_lt.2 (selBelow_eq_false.1 h))
    rw [exec, execSetShaper, ht]; rfl
  | writeWavetable sel addr data =>
    rw [exec, execWriteWavetable]
    rcases Bool.and_eq_false_iff.1 h with hsel | haddr
    · rw [selOperand_of_not_below hsel]; rfl
    · split
      · exact if_neg (Nat.not_lt.2 (addrBelow_eq_false.1 haddr))
      · rfl
  | seqWrite sel field sub step data =>
    rw [exec, execSeqWrite]
    rcases Bool.and_eq_false_iff.1 h with hsel | hfield
    · rw [selOperand_of_not_below hsel]; rfl
    · split
      · rw [writeField_of_not_exists hfield]; rfl
      · rfl
  | seqSetParam sel addr data =>
    rw [exec, execSeqSetParam]
    rcases Bool.and_eq_false_iff.1 h with hsel | haddr
    · rw [selOperand_of_not_below hsel]; rfl
    · split
      · rw [writeParam_of_not_below (addrBelow_eq_false.1 haddr)]; rfl
      · rfl
  | seqCopy sel addr =>
    rw [exec, execSeqCopy]
    rcases Bool.and_eq_false_iff.1 h with hsel | haddr
    · rw [selOperand_of_not_below hsel]; rfl
    · rw [addrOperand_of_not_below haddr]
      split
      · next hb => cases hb
      · rfl
  | _ => cases h

/-- Settles O14: a selector or address that names nothing makes its operation one that is not well-formed. -/
theorem namingNothingChangesNothing : Obligations.NamingNothingChangesNothing := by
  intro s
  refine ⟨fun sel addr field sub step data => ⟨fun h => ?engine, fun h => ?table, fun h => ?shaper, fun h => ?voice,
    fun h => ?slot, fun h => ?sequence, fun h => ?field, fun h => ?parameter, fun h => ?copy⟩,
    fun i h => exec_of_not_wellFormed h⟩
  case engine =>
    have hsel := selBelow_eq_false.2 h
    exact ⟨exec_of_not_wellFormed hsel, exec_of_not_wellFormed hsel, exec_of_not_wellFormed hsel,
      exec_of_not_wellFormed hsel⟩
  case table => exact exec_of_not_wellFormed (Bool.and_eq_false_iff.2 (h.imp selBelow_eq_false.2 addrBelow_eq_false.2))
  case shaper => exact exec_of_not_wellFormed (selBelow_eq_false.2 h)
  case voice => exact exec_of_not_wellFormed (selBelow_eq_false.2 h)
  case slot => exact exec_of_not_wellFormed (selBelow_eq_false.2 h)
  case sequence =>
    have hsel := selBelow_eq_false.2 h
    exact ⟨exec_of_not_wellFormed hsel, exec_of_not_wellFormed hsel⟩
  case field =>
    exact exec_of_not_wellFormed (Bool.and_eq_false_iff.2 (h.imp selBelow_eq_false.2 seqFieldExists_eq_false.2))
  case parameter =>
    exact exec_of_not_wellFormed (Bool.and_eq_false_iff.2 (h.imp selBelow_eq_false.2 addrBelow_eq_false.2))
  case copy => exact exec_of_not_wellFormed (Bool.and_eq_false_iff.2 (h.imp selBelow_eq_false.2 addrBelow_eq_false.2))

end Sys2Proof.Machine
end

section
/-! PROOFS. The order of service (60_exceptions R416, R418): which request the arbiter takes, what an instant latches
and how a batch of instants is consumed (log 2, 3, 4). -/

namespace Sys2Proof.Machine

/-! ## The latches (60_exceptions R418) -/

/-- A latch stands behind the waiting ones, and only where its port is pulsed and does not wait already. -/
theorem latch_eq_append (q : Strobe) (pulsed : Bool) (waiting : List Strobe) :
    latch q pulsed waiting = waiting ++ (if pulsed = true ∧ q ∉ waiting then [q] else []) := by
  unfold latch
  by_cases h : pulsed = true ∧ q ∉ waiting
  · rw [if_pos (by simpa using h), if_pos h]
  · rw [if_neg (by simpa using h), if_neg h, List.append_nil]

/-- The latch of one port leaves the other ports as they wait. -/
theorem mem_latch_of_ne {q r : Strobe} (h : r ≠ q) (pulsed : Bool) (waiting : List Strobe) :
    r ∈ latch q pulsed waiting ↔ r ∈ waiting := by
  rw [latch_eq_append, List.mem_append]
  split <;> simp [h]

/-- The pulses of one instant, LFO before ENV before CLK. -/
theorem latch_instant (e : PortEvent) (waiting : List Strobe) :
    latch .clk e.clk (latch .env e.env (latch .lfo e.lfo waiting)) =
      waiting ++
        ((if e.lfo = true ∧ Strobe.lfo ∉ waiting then [Strobe.lfo] else []) ++
        (if e.env = true ∧ Strobe.env ∉ waiting then [Strobe.env] else []) ++
        (if e.clk = true ∧ Strobe.clk ∉ waiting then [Strobe.clk] else [])) := by
  have henv : Strobe.env ∈ latch .lfo e.lfo waiting ↔ Strobe.env ∈ waiting := mem_latch_of_ne (by decide) ..
  have hclk : Strobe.clk ∈ latch .env e.env (latch .lfo e.lfo waiting) ↔ Strobe.clk ∈ waiting :=
    (mem_latch_of_ne (by decide) ..).trans (mem_latch_of_ne (by decide) ..)
  simp only [latch_eq_append .clk, hclk]
  simp only [latch_eq_append .env, henv]
  simp only [latch_eq_append .lfo, List.append_assoc]

/-- One instant in whole: the time, the command word and the latches, and nothing else. -/
theorem acceptEvent_eq (s : State) (e : PortEvent) :
    acceptEvent s e =
      (s.withInputs { s.inputs with now := e.now, cmdQueue := s.inputs.cmdQueue ++ e.cmd.toList }).withPorts
        { s.ports with
          audioReq := s.ports.audioReq || e.audio
          strobes := latch .clk e.clk (latch .env e.env (latch .lfo e.lfo s.ports.strobes)) } := rfl

/-! ## The arbiter (60_exceptions R416) -/

section
variable {s : State}

theorem arbitrate_audio (h : s.ports.audioReq = true) :
    arbitrate s = some (encode .audioTick, s.withPorts { s.ports with audioReq := false, cmdReady := false }) :=
  if_pos h

theorem arbitrate_strobe {q : Strobe} {rest : List Strobe} (ha : s.ports.audioReq = false)
    (hq : s.ports.strobes = q :: rest) :
    arbitrate s = some (requestWord q, s.withPorts { s.ports with strobes := rest, cmdReady := false }) := by
  simp [arbitrate, ha, hq]

theorem arbitrate_cmd {w : CmdWord} {rest : List CmdWord} (ha : s.ports.audioReq = false)
    (hq : s.ports.strobes = []) (hw : s.inputs.cmdQueue = w :: rest) :
    arbitrate s =
      some (w, (s.withInputs { s.inputs with cmdQueue := rest }).withPorts { s.ports with cmdReady := true }) := by
  simp [arbitrate, ha, hq, hw]

theorem arbitrate_idle (ha : s.ports.audioReq = false) (hq : s.ports.strobes = []) (hw : s.inputs.cmdQueue = []) :
    arbitrate s = none := by
  simp [arbitrate, ha, hq, hw]

/-! ## Batches (log 2) -/

theorem accept_of_nil (h : s.inputs.arrivals = []) : accept s = s := by
  rw [accept, h]

theorem accept_of_cons {batch : List PortEvent} {rest : List (List PortEvent)} (h : s.inputs.arrivals = batch :: rest) :
    accept s = batch.foldl acceptEvent (s.withInputs { s.inputs with arrivals := rest }) := by
  rw [accept, h]

end

/-! ## The obligation -/

/-- Settles O16: one rule of the arbiter per kind of request, one rule per shape of `arrivals`, and one instant in
whole. -/
theorem requestsAreServedInOrder : Obligations.RequestsAreServedInOrder := by
  intro s
  refine ⟨arbitrate_audio, fun rest ha => ⟨arbitrate_strobe ha, arbitrate_strobe ha, arbitrate_strobe ha⟩,
    fun w rest => arbitrate_cmd, arbitrate_idle, accept_of_nil, fun batch rest => accept_of_cons, fun e => ?_⟩
  rw [acceptEvent_eq, latch_instant]

end Sys2Proof.Machine
end

section
/-! PROOFS. The response word (30_encoding R113): where its five words lie, what each of their fields reads, and that a
packed note or velocity of a legal state reads back as the number it was. -/

namespace Sys2Proof.Machine

/-! ## Packed numbers -/

/-- A note in range is an 8-bit two's complement number. -/
theorem toInt_noteByte {p : Params} (hp : p.Legal) {n : Int} (h : IsNote p n) : (noteByte (some n)).toInt = n := by
  obtain ⟨hlo, -, hhi⟩ := hp.notes
  obtain ⟨href0, href1⟩ := hp.noteRef
  have h0 : p.noteMin ≤ n := h.1
  have h1 : n ≤ p.noteMax := h.2
  exact BitVec.toInt_ofInt_eq_self (by decide) (by omega) (by omega)

/-- A velocity fits its seven bits. -/
theorem toNat_velField {vel : Int} (h : IsVel vel) : ((velField vel).toNat : Int) = vel := by
  obtain ⟨h0, h1⟩ := h
  rw [velField, BitVec.toNat_ofInt]
  omega

/-! ## Batches -/

section
variable {α : Type} {notes : α → Vector (Option Note) 4} {x : Option α} {v : Fin 4}

/-- The note that an optional batch holds for a voice. -/
def noteIn (notes : α → Vector (Option Note) 4) (x : Option α) (v : Fin 4) : Option Note :=
  x.bind fun b => (notes b)[v]

theorem noteIn_eq_some_iff {n : Note} : noteIn notes x v = some n ↔ ∃ b, x = some b ∧ (notes b)[v] = some n :=
  Option.bind_eq_some_iff

theorem noteIn_isSome_iff : (noteIn notes x v).isSome = true ↔ ∃ b n, x = some b ∧ (notes b)[v] = some n := by
  rw [Option.isSome_iff_exists, exists_comm]
  exact exists_congr fun n => noteIn_eq_some_iff

theorem noteIn_eq_none (h : ∀ b n, x = some b → (notes b)[v] ≠ some n) : noteIn notes x v = none :=
  Option.eq_none_iff_forall_ne_some.2 fun n hn =>
    let ⟨b, hb, hv⟩ := noteIn_eq_some_iff.1 hn
    h b n hb hv

/-- What the byte and the mask bit of a voice read, where every note of the batch is in range. -/
theorem noteByte_noteIn_reads {p : Params} (hp : p.Legal) (hx : ∀ b ∈ x, ∀ v : Fin 4, OptNote p (notes b)[v]) :
    (∀ b n, x = some b → (notes b)[v] = some n → (noteByte (noteIn notes x v)).toInt = n) ∧
    ((∀ b n, x = some b → (notes b)[v] ≠ some n) → noteByte (noteIn notes x v) = 0) ∧
    ((noteIn notes x v).isSome = true ↔ ∃ b n, x = some b ∧ (notes b)[v] = some n) := by
  refine ⟨fun b n hb hn => ?_, fun h => ?_, noteIn_isSome_iff⟩
  · rw [noteIn_eq_some_iff.2 ⟨b, hb, hn⟩]
    exact toInt_noteByte hp (hx b hb v n hn)
  · rw [noteIn_eq_none h]; rfl

theorem getElem_getD_emptyBatch (notes : α → Vector (Option Note) 4) (x : Option α) (v : Fin 4) :
    ((x.map notes).getD emptyBatch)[v] = noteIn notes x v := by
  cases x with
  | none => exact Vector.getElem_replicate v.isLt
  | some b => rfl

end

/-- Voice v's byte of four packed notes. -/
theorem extractLsb'_batchNotes (x : Vector (Option Note) 4) (v : Fin 4) :
    (batchNotes x).extractLsb' (8 * v.val) 8 = noteByte x[v] := by
  match v with
  | 0 | 1 | 2 | 3 =>
    simp (disch := decide) only [batchNotes, BitVec.extractLsb'_append_eq_of_le, BitVec.extractLsb'_append_eq_of_add_le]
    exact BitVec.extractLsb'_eq_self

/-- Voice v's bit of the mask of four notes. -/
theorem getLsbD_batchMask (x : Vector (Option Note) 4) (v : Fin 4) : (batchMask x).getLsbD v.val = x[v].isSome := by
  match v with
  | 0 | 1 | 2 | 3 =>
    simp only [batchMask, BitVec.getLsbD_append]
    exact BitVec.getLsbD_ofBool ..

/-! ## The parts of the response -/

/-- RSP0, bits 31:16. -/
def arpOnPart (x : Option (Note × Int)) : BitVec 16 :=
  match x with
  | some (n, vel) => 1#1 ++ velField vel ++ noteByte (some n)
  | none => 0#16

/-- RSP0, bits 15:0. -/
def arpOffPart (x : Option Note) : BitVec 16 :=
  match x with
  | some n => 1#1 ++ 0#7 ++ noteByte (some n)
  | none => 0#16

/-- RSP2, bits 31:16. -/
def seqOnPart (x : Option SeqOn) : BitVec 16 :=
  match x with
  | some y => 1#1 ++ velField y.vel ++ 0#4 ++ batchMask y.notes
  | none => 0#16

/-- RSP2, bits 15:8. -/
def seqOffPart (x : Option (Vector (Option Note) 4)) : BitVec 8 :=
  match x with
  | some y => 1#1 ++ 0#3 ++ batchMask y
  | none => 0#8

/-- The response as its parts, from RSP4 down to RSP0. -/
theorem response_eq_parts (s : State) :
    response s =
      rsp4 s ++ rsp3 s.outbox ++
        (seqOnPart s.outbox.seqOn ++ seqOffPart s.outbox.seqOff ++ BitVec.ofNat 8 s.outbox.clock) ++
        rsp1 s.outbox ++ (arpOnPart s.outbox.arpOn ++ arpOffPart s.outbox.arpOff) := rfl

theorem getLsbD_append_of_lt {n m i : Nat} {x : BitVec n} {y : BitVec m} (h : i < m) :
    (x ++ y).getLsbD i = y.getLsbD i := by
  rw [BitVec.getLsbD_append, if_pos h]

theorem getLsbD_append_of_le {n m i : Nat} {x : BitVec n} {y : BitVec m} (h : m ≤ i) :
    (x ++ y).getLsbD i = x.getLsbD (i - m) := by
  rw [BitVec.getLsbD_append, if_neg (Nat.not_lt.2 h)]

/-! ## What each part holds -/

theorem arpOnPart_present (x : Option (Note × Int)) : (arpOnPart x).getLsbD 15 = x.isSome := by
  cases x with
  | none => rfl
  | some e => simp (disch := decide) only [arpOnPart, getLsbD_append_of_le]; rfl

theorem arpOnPart_some (n : Note) (vel : Int) :
    (arpOnPart (some (n, vel))).extractLsb' 8 7 = velField vel ∧
    (arpOnPart (some (n, vel))).extractLsb' 0 8 = noteByte (some n) := by
  simp (disch := decide) only [arpOnPart, BitVec.extractLsb'_append_eq_of_le, BitVec.extractLsb'_append_eq_of_add_le]
  exact ⟨BitVec.extractLsb'_eq_self, BitVec.extractLsb'_eq_self⟩

theorem arpOffPart_fields (x : Option Note) :
    (arpOffPart x).getLsbD 15 = x.isSome ∧ (arpOffPart x).extractLsb' 8 7 = 0 ∧
    (arpOffPart x).extractLsb' 0 8 = noteByte x := by
  cases x with
  | none => exact ⟨rfl, rfl, rfl⟩
  | some n =>
    simp (disch := decide) only [arpOffPart, BitVec.extractLsb'_append_eq_of_le,
      BitVec.extractLsb'_append_eq_of_add_le, getLsbD_append_of_le]
    exact ⟨rfl, rfl, BitVec.extractLsb'_eq_self⟩

theorem seqOnPart_fields (x : Option SeqOn) :
    (seqOnPart x).getLsbD 15 = x.isSome ∧
    (∀ y, x = some y → (seqOnPart x).extractLsb' 8 7 = velField y.vel) ∧
    (x = none → (seqOnPart x).extractLsb' 8 7 = 0) ∧ (seqOnPart x).extractLsb' 4 4 = 0 := by
  cases x with
  | none => exact ⟨rfl, nofun, fun _ => rfl, rfl⟩
  | some y =>
    simp (disch := decide) only [seqOnPart, BitVec.extractLsb'_append_eq_of_le,
      BitVec.extractLsb'_append_eq_of_add_le, getLsbD_append_of_le]
    refine ⟨rfl, ?_, nofun, rfl⟩
    rintro _ ⟨⟩
    exact BitVec.extractLsb'_eq_self

theorem seqOnPart_mask (x : Option SeqOn) (v : Fin 4) :
    (seqOnPart x).getLsbD v.val = (noteIn SeqOn.notes x v).isSome := by
  cases x with
  | none => exact BitVec.getLsbD_zero
  | some y => exact (getLsbD_append_of_lt v.isLt).trans (getLsbD_batchMask y.notes v)

theorem seqOffPart_fields (x : Option (Vector (Option Note) 4)) :
    (seqOffPart x).getLsbD 7 = x.isSome ∧ (seqOffPart x).extractLsb' 4 3 = 0 := by
  cases x with
  | none => exact ⟨rfl, rfl⟩
  | some y =>
    simp (disch := decide) only [seqOffPart, BitVec.extractLsb'_append_eq_of_le,
      BitVec.extractLsb'_append_eq_of_add_le, getLsbD_append_of_le]
    exact ⟨rfl, rfl⟩

theorem seqOffPart_mask (x : Option (Vector (Option Note) 4)) (v : Fin 4) :
    (seqOffPart x).getLsbD v.val = (noteIn id x v).isSome := by
  cases x with
  | none => exact BitVec.getLsbD_zero
  | some y => exact (getLsbD_append_of_lt v.isLt).trans (getLsbD_batchMask y v)

theorem rsp1_note (b : Outbox) (v : Fin 4) :
    (rsp1 b).extractLsb' (8 * v.val) 8 = noteByte (noteIn SeqOn.notes b.seqOn v) := by
  rw [rsp1, extractLsb'_batchNotes, getElem_getD_emptyBatch]

theorem rsp3_note (b : Outbox) (v : Fin 4) : (rsp3 b).extractLsb' (8 * v.val) 8 = noteByte (noteIn id b.seqOff v) := by
  rw [rsp3, extractLsb'_batchNotes, ← getElem_getD_emptyBatch, Option.map_id_apply]

theorem rsp4_fields (s : State) :
    (rsp4 s).getLsbD 0 = s.ui.refreshDue ∧ (rsp4 s).getLsbD 1 = s.ui.blinkOn ∧ (rsp4 s).extractLsb' 2 6 = 0 ∧
    (rsp4 s).extractLsb' 8 8 = BitVec.ofNat 8 s.ui.arrowFrame ∧ (rsp4 s).extractLsb' 16 8 = statusWord s ∧
    (rsp4 s).extractLsb' 24 8 = 0 := by
  simp (disch := decide) only [rsp4, BitVec.extractLsb'_append_eq_of_le, BitVec.extractLsb'_append_eq_of_add_le,
    getLsbD_append_of_le, getLsbD_append_of_lt]
  exact ⟨BitVec.getLsbD_ofBool .., BitVec.getLsbD_ofBool .., rfl, BitVec.extractLsb'_eq_self,
    BitVec.extractLsb'_eq_self, rfl⟩

/-! ## Where the parts lie in the response -/

section
variable (s : State)

theorem response_arpOn :
    (response s).getLsbD 31 = s.outbox.arpOn.isSome ∧
    (∀ n vel, s.outbox.arpOn = some (n, vel) →
      (response s).extractLsb' 24 7 = velField vel ∧ (response s).extractLsb' 16 8 = noteByte (some n)) ∧
    (s.outbox.arpOn = none → (response s).extractLsb' 16 15 = 0) := by
  simp (disch := decide) only [response_eq_parts, BitVec.extractLsb'_append_eq_of_le,
    BitVec.extractLsb'_append_eq_of_add_le, getLsbD_append_of_le, getLsbD_append_of_lt]
  refine ⟨arpOnPart_present _, fun n vel h => ?_, fun h => ?_⟩
  · rw [h]; exact arpOnPart_some n vel
  · rw [h]; rfl

theorem response_arpOff :
    (response s).getLsbD 15 = s.outbox.arpOff.isSome ∧ (response s).extractLsb' 8 7 = 0 ∧
    (response s).extractLsb' 0 8 = noteByte s.outbox.arpOff := by
  simp (disch := decide) only [response_eq_parts, BitVec.extractLsb'_append_eq_of_add_le, getLsbD_append_of_lt]
  exact arpOffPart_fields _

theorem response_seqOn :
    (response s).getLsbD 95 = s.outbox.seqOn.isSome ∧
    (∀ b, s.outbox.seqOn = some b → (response s).extractLsb' 88 7 = velField b.vel) ∧
    (s.outbox.seqOn = none → (response s).extractLsb' 88 7 = 0) ∧ (response s).extractLsb' 84 4 = 0 := by
  simp (disch := decide) only [response_eq_parts, BitVec.extractLsb'_append_eq_of_le,
    BitVec.extractLsb'_append_eq_of_add_le, getLsbD_append_of_le, getLsbD_append_of_lt]
  exact seqOnPart_fields _

theorem response_seqOff :
    (response s).getLsbD 79 = s.outbox.seqOff.isSome ∧ (response s).extractLsb' 76 3 = 0 ∧
    (response s).extractLsb' 64 8 = BitVec.ofNat 8 s.outbox.clock := by
  simp (disch := decide) only [response_eq_parts, BitVec.extractLsb'_append_eq_of_le,
    BitVec.extractLsb'_append_eq_of_add_le, getLsbD_append_of_le, getLsbD_append_of_lt]
  obtain ⟨hflag, hzero⟩ := seqOffPart_fields s.outbox.seqOff
  exact ⟨hflag, hzero, BitVec.extractLsb'_eq_self⟩

theorem response_ui :
    (response s).getLsbD 128 = s.ui.refreshDue ∧ (response s).getLsbD 129 = s.ui.blinkOn ∧
    (response s).extractLsb' 130 6 = 0 ∧ (response s).extractLsb' 136 8 = BitVec.ofNat 8 s.ui.arrowFrame ∧
    (response s).extractLsb' 144 8 = statusWord s ∧ (response s).extractLsb' 152 8 = 0 := by
  simp (disch := decide) only [response_eq_parts, BitVec.extractLsb'_append_eq_of_le, getLsbD_append_of_le]
  exact rsp4_fields s

theorem response_seqOnNote (v : Fin 4) :
    (response s).extractLsb' (32 + 8 * v.val) 8 = noteByte (noteIn SeqOn.notes s.outbox.seqOn v) := by
  have hv : v.val < 4 := v.isLt
  simp (disch := omega) only [← rsp1_note, response_eq_parts, BitVec.extractLsb'_append_eq_of_le,
    BitVec.extractLsb'_append_eq_of_add_le]
  congr 1
  omega

theorem response_seqOffNote (v : Fin 4) :
    (response s).extractLsb' (96 + 8 * v.val) 8 = noteByte (noteIn id s.outbox.seqOff v) := by
  have hv : v.val < 4 := v.isLt
  simp (disch := omega) only [← rsp3_note, response_eq_parts, BitVec.extractLsb'_append_eq_of_le,
    BitVec.extractLsb'_append_eq_of_add_le]
  congr 1
  omega

theorem response_seqOnMask (v : Fin 4) :
    (response s).getLsbD (80 + v.val) = (noteIn SeqOn.notes s.outbox.seqOn v).isSome := by
  have hv : v.val < 4 := v.isLt
  simp (disch := omega) only [← seqOnPart_mask, response_eq_parts, getLsbD_append_of_le, getLsbD_append_of_lt]
  congr 1
  omega

theorem response_seqOffMask (v : Fin 4) :
    (response s).getLsbD (72 + v.val) = (noteIn id s.outbox.seqOff v).isSome := by
  have hv : v.val < 4 := v.isLt
  simp (disch := omega) only [← seqOffPart_mask, response_eq_parts, getLsbD_append_of_le, getLsbD_append_of_lt]
  congr 1
  omega

/-! ## The operation -/

theorem exec_outboxDrain_rsp :
    ∃ t, exec .outboxDrain s = .next t ∧ t.ports.rspValid = true ∧ t.ports.rsp = response s :=
  ⟨_, rfl, rfl, rfl⟩

end

/-! ## The obligation -/

/-- Settles O21: each field lies where the rules above say, and a note, velocity or count of a legal state fits its
field. -/
theorem responseHasListedFields : Obligations.ResponseHasListedFields := by
  intro s hs
  obtain ⟨t, hexec, hvalid, hrsp⟩ := exec_outboxDrain_rsp s
  refine ⟨t, hexec, hvalid, ?_⟩
  rw [hrsp]
  obtain ⟨hArpOn, hArpOff, hSeqOn, hSeqOff, hClock, -⟩ := hs.outbox
  refine ⟨?arpOn, ?arpOff, ?seqOnNotes, ?seqOn, ?seqOff, ?seqOffNotes, ?ui⟩
  case arpOn =>
    obtain ⟨hflag, hsome, hnone⟩ := response_arpOn s
    refine ⟨hflag, fun n vel h => ?_, hnone⟩
    obtain ⟨hn, hvel⟩ := hArpOn _ h
    rw [(hsome n vel h).1, (hsome n vel h).2]
    exact ⟨toNat_velField hvel, toInt_noteByte hs.params hn⟩
  case arpOff =>
    obtain ⟨hflag, hzero, hnote⟩ := response_arpOff s
    refine ⟨hflag, hzero, fun n h => ?_, fun h => ?_⟩
    · rw [hnote, h]; exact toInt_noteByte hs.params (hArpOff n h)
    · rw [hnote, h]; rfl
  case seqOnNotes =>
    intro v
    rw [response_seqOnNote, response_seqOnMask]
    exact noteByte_noteIn_reads hs.params fun b hb => (hSeqOn b hb).1
  case seqOn =>
    obtain ⟨hflag, hsome, hnone, hzero⟩ := response_seqOn s
    refine ⟨hflag, fun b h => ?_, hnone, hzero⟩
    rw [hsome b h]
    exact toNat_velField (hSeqOn b h).2
  case seqOff =>
    obtain ⟨hflag, hzero, hclock⟩ := response_seqOff s
    refine ⟨hflag, hzero, ?_⟩
    rw [hclock, BitVec.toNat_ofNat, Nat.mod_eq_of_lt (by omega)]
  case seqOffNotes =>
    intro v
    rw [response_seqOffNote, response_seqOffMask]
    exact noteByte_noteIn_reads hs.params hSeqOff
  case ui =>
    obtain ⟨hrefresh, hblink, hzero, harrow, hstatus, hhigh⟩ := response_ui s
    obtain ⟨-, -, -, hframe⟩ := hs.ui
    refine ⟨hrefresh, hblink, hzero, ?_, hstatus, hhigh⟩
    rw [harrow, BitVec.toNat_ofNat, Nat.mod_eq_of_lt (by omega)]

end Sys2Proof.Machine
end

section
/-! PROOFS. The settings of the oscillator bank and of the allocator's pitch (40_oscillator_bank R127 to R136,
49_voice_allocator R378 to R380, R392): what each operand is read as, what each procedure writes, oscillator by
oscillator and voice by voice. -/

namespace Sys2Proof.Machine

/-! ## Operands (30_encoding R104, R106) -/

/-- An unsigned operand is never below 0, so only the upper bound clamps it, whatever that bound is. -/
theorem uOperand_zero_eq_min (hi : Int) (data : DataField) : uOperand 0 hi data = min hi (uData data) := by
  have hnonneg : 0 ≤ uData data := Int.natCast_nonneg _
  rw [uOperand, clamp, if_neg hnonneg.not_gt]
  split
  · next hlt => exact (min_eq_left hlt.le).symm
  · next hle => exact (min_eq_right (not_lt.1 hle)).symm

theorem countOperand_zero_eq_min (hi : Nat) (data : DataField) : countOperand 0 hi data = min hi data.toNat := by
  rw [countOperand, clampNat_eq_max_min (Nat.zero_le hi), Nat.zero_max]

/-- The eight waves in the order 10_state R27 numbers them. -/
theorem waveOperand_eq_getD (data : DataField) :
    waveOperand data =
      [Wave.sine, .triangle, .saw, .square, .user1, .user2, .user3, .noise].getD (min 7 data.toNat) .noise := by
  unfold waveOperand
  split
  case h_8 h0 h1 h2 h3 h4 h5 h6 =>
    rw [imp_false] at h0 h1 h2 h3 h4 h5 h6
    rw [Nat.min_eq_left (by omega)]; rfl
  all_goals next hn => rw [hn]; rfl

/-- The selector of a thing that exists names it. -/
theorem selOperand_of_toNat_eq {n : Nat} {sel : SelField} {e : Fin n} (h : sel.toNat = e.val) :
    selOperand n sel = some e := by
  have hlt : sel.toNat < n := h ▸ e.isLt
  rw [selOperand, dif_pos hlt]
  exact congrArg some (Fin.ext h)

/-! ## The operations of an engine that exists (40_oscillator_bank R130, R131, R133, R134) -/

section
variable {sel : SelField} {e : Fin 2} (h : sel.toNat = e.val) (data : DataField) (s : State)
include h

theorem exec_setWave :
    exec (.setWave sel data) s =
      .next (s.withEngines (s.engines.set e { s.engines[e] with wave := waveOperand data })) := by
  rw [exec, execSetWave, selOperand_of_toNat_eq h]; rfl

theorem exec_setOctave :
    exec (.setOctave sel data) s =
      .next (deriveIncrements (s.withEngines (s.engines.set e
        { s.engines[e] with octave := sOperand s.params.octMin s.params.octMax data }))) := by
  rw [exec, execSetOctave, selOperand_of_toNat_eq h]; rfl

theorem exec_setDetune :
    exec (.setDetune sel data) s =
      .next (deriveIncrements (s.withEngines (s.engines.set e
        { s.engines[e] with detune := sOperand (-s.params.detuneMax) s.params.detuneMax data }))) := by
  rw [exec, execSetDetune, selOperand_of_toNat_eq h]; rfl

theorem exec_setVolume :
    exec (.setVolume sel data) s =
      .next ((s.withEngines (s.engines.set e { s.engines[e] with volume := uOperand 0 Config.gainMax data })).withMem
        (s.mem.fill (.vol e) (volEntry (uOperand 0 Config.gainMax data)))) := by
  rw [exec, execSetVolume, selOperand_of_toNat_eq h]; rfl

end

/-! ## Wave and pulse width (40_oscillator_bank R130, R135, R136) -/

/-- UpdatePulseWidth in whole (R136). -/
theorem updatePulseWidth_eq (s : State) :
    updatePulseWidth s =
      (let base := within 0 1023 (s.pw.knob + s.vel.pw)
       let eff := if s.params.lfoPwMinDepth < s.matrix[8] then within 0 1023 (base + s.lfoMod.pw) else base
       s.withPw { knob := s.pw.knob, eff := eff, edge := eff * 600 / 1024 }) := rfl

/-- Settles O26: the wave by its number, the pulse width by its procedure. -/
theorem waveAndPulseWidthAreSet : Obligations.WaveAndPulseWidthAreSet := by
  refine ⟨rfl, fun s e sel data h => ?wave, fun s data => ⟨updatePulseWidth_eq s, ?knob⟩⟩
  case wave => rw [exec_setWave h, waveOperand_eq_getD]
  case knob => rw [exec, execSetPw, uOperand_zero_eq_min]; rfl

/-! ## DeriveIncrements (40_oscillator_bank R127) -/

@[simp] theorem engineOf_oscOf (e : Fin 2) (v : Fin 4) : engineOf (oscOf e v) = e := by
  ext; simp only [engineOf, oscOf]; omega

@[simp] theorem voiceOf_oscOf (e : Fin 2) (v : Fin 4) : voiceOf (oscOf e v) = v := by
  ext; simp only [voiceOf, oscOf]; omega

@[simp] theorem deriveIncrements_osc (s : State) (o : Fin 8) : (deriveIncrements s).osc[o] = deriveOsc s o :=
  Vector.getElem_ofFn o.isLt

@[simp] theorem deriveIncrements_voices (s : State) (v : Fin 4) :
    (deriveIncrements s).voices[v] = endGlide s s.voices[v] := Vector.getElem_map _ v.isLt

theorem glideActive_iff {x : Voice} {s : State} :
    glideActive x s = true ↔ x.gliding = true ∧ 0 < s.alloc.portaTime ∧ s.since x.portaT0 < s.alloc.portaTime := by
  simp only [glideActive, Bool.and_eq_true, decide_eq_true_eq, and_assoc]

section
variable {s : State} {o : Fin 8} {v : Fin 4} (hv : voiceOf o = v)
include hv

theorem deriveOsc_of_note_eq_none (h : s.voices[v].note = none) : deriveOsc s o = s.osc[o] := by
  subst hv
  rw [deriveOsc, h]

/-- The increment is the target, or the point of the glide where one is under way from a valid target. -/
theorem deriveOsc_of_note_eq_some {n : Note} (h : s.voices[v].note = some n) :
    deriveOsc s o =
      { s.osc[o] with
        inc :=
          if s.voices[v].gliding = true ∧ s.osc[o].tgtValid = true ∧ 0 < s.alloc.portaTime ∧
              s.since s.voices[v].portaT0 < s.alloc.portaTime then
            lerp s.osc[o].portaFrom (oscTarget o n s) (s.since s.voices[v].portaT0) s.alloc.portaTime
          else oscTarget o n s
        lastTgt := oscTarget o n s
        tgtValid := true
        portaFrom := if s.osc[o].tgtValid then s.osc[o].portaFrom else oscTarget o n s } := by
  subst hv
  rw [deriveOsc, h]
  simp only [Bool.and_eq_true, glideActive_iff, and_comm (b := s.osc[o].tgtValid = true), and_left_comm]

/-- The target increment of the oscillator of an engine and a voice. -/
theorem oscTarget_eq {e : Fin 2} (he : engineOf o = e) (n : Note) :
    oscTarget o n s =
      (let eff := within s.params.octMin s.params.octMax (s.engines[e].octave + s.lfoMod.oct[e])
       let off := s.engines[e].detune + s.lfoMod.pitch[e] + s.envMod.pitch[e] + s.vel.pitch[e]
       within 0 s.params.incMax
        (s.params.incTable.getD (within 0 127 (s.params.noteRef + n + 12 * eff)).toNat 0 + off +
          s.alloc.unisonOff[v])) := by
  subst hv he
  rfl

end

/-- The glide goes on exactly where its time is neither zero nor over. -/
theorem glideActive_eq_ite (x : Voice) (s : State) :
    glideActive x s =
      if s.alloc.portaTime = 0 ∨ s.alloc.portaTime ≤ s.since x.portaT0 then false else x.gliding := by
  rw [Bool.eq_iff_iff, glideActive_iff]
  split
  · next hover => exact ⟨fun h => by omega, nofun⟩
  · next hrun => exact ⟨fun h => h.1, fun h => ⟨h, by omega⟩⟩

/-- Settles O27: `deriveOsc` for a voice without and with a note, and `endGlide` for every voice. -/
theorem incrementsAreDerivedFromNotes : Obligations.IncrementsAreDerivedFromNotes := by
  refine fun s => ⟨fun e v => ⟨fun h => ?silent, fun n h => ?sounding⟩, fun v => ?glide, rfl⟩
  case silent => rw [deriveIncrements_osc, deriveOsc_of_note_eq_none (voiceOf_oscOf e v) h]
  case sounding =>
    intro x y eff off tgt el
    have htgt : oscTarget (oscOf e v) n s = tgt := oscTarget_eq (voiceOf_oscOf e v) (engineOf_oscOf e v) n
    rw [deriveIncrements_osc, deriveOsc_of_note_eq_some (voiceOf_oscOf e v) h, htgt]
    rfl
  case glide =>
    rw [deriveIncrements_voices, endGlide, glideActive_eq_ite]; rfl

/-! ## Pitch and unison settings (R131, R134, 49_voice_allocator R378 to R380, R392) -/

/-- UpdateUnison writes the offsets of the four voices and nothing else. -/
theorem updateUnison_withAlloc (s : State) (c : Alloc) :
    updateUnison (s.withAlloc c) =
      s.withAlloc { c with unisonOff := Vector.ofFn (unisonOffset (s.withAlloc c)) } := rfl

/-- Settles O28: the operand each operation stores; the offsets voice by voice. -/
theorem pitchAndUnisonSettingsRederive : Obligations.PitchAndUnisonSettingsRederive := by
  refine ⟨fun s e sel data => ⟨fun h => ⟨exec_setOctave h data s, exec_setDetune h data s⟩, rfl⟩,
    fun s data => ⟨fun c => ⟨_, updateUnison_withAlloc s c, fun v => Vector.getElem_ofFn v.isLt⟩, ?count, ?spread⟩⟩
  case count => rw [exec, execSetUnison, countOperand_zero_eq_min]; rfl
  case spread => rw [exec, execSetUnisonSpread, uOperand_zero_eq_min]; rfl

/-! ## SET_VOLUME (40_oscillator_bank R133) -/

/-- The word of a volume table is the centred multiply, without loss (20_memory R80). -/
theorem volEntry_toNat {volume : Int} (hv : IsGain volume) {x : Nat} (hx : x < 4096) :
    ((volEntry volume x).toNat : Int) = 2048 + ((x : Int) - 2048) * volume / 1024 :=
  ofInt_sample (cmul_isSample ⟨by omega, by omega⟩ hv)

/-- A rebuild leaves every word of every other table memory, listed index or not. -/
theorem Memory.read_fill_of_ne (m : Memory) {T U : Space} (h : U ≠ T) (f : Nat → Sample) (a : Nat) :
    (m.fill T f).read U a = m.read U a := by
  rw [Memory.read, Memory.fill, Memory.table_setTable, if_neg h, Memory.read]

/-- Settles O29: the memory is the rebuilt one. -/
theorem setVolumeRebuildsTheVolumeTable : Obligations.SetVolumeRebuildsTheVolumeTable := by
  intro s e sel data h
  have hexec := exec_setVolume h data s
  have hgain := uOperand_isGain data
  rw [uOperand_zero_eq_min, Config.gainMax] at hexec hgain
  refine ⟨_, hexec, fun x hx => ?word, fun T a hT => Memory.read_fill_of_ne _ hT _ a, Memory.fill_seq _ _ _⟩
  case word => rw [Memory.read_fill _ _ _ _ hx, if_pos rfl, volEntry_toNat hgain hx]

end Sys2Proof.Machine
end

section
/-! PROOFS. The audio tick (41_audio_mixer R150): what each stage makes of its input, the state after a tick written out
once (`audioTicked`), and the two statements read off it. -/

namespace Sys2Proof.Machine

/-! ## The arithmetic of the stages (00_scope R12, 44_filter R242) -/

theorem cmul_eq_scaled (x g : Int) : cmul x g = scaled x g := rfl

/-- The wrap of the filter registers is the balanced remainder of 2^32. -/
theorem wrap32_eq_bmod (v : Int) : wrap32 v = v.bmod 4294967296 := by
  rw [wrap32, Int.bmod_def]
  split <;> omega

theorem phaseIndex_eq (p : Params) (phase : Int) : phaseIndex p phase = phase / 2 ^ p.fracBits := by
  rw [phaseIndex, Params.fracUnit, Nat.cast_pow, Nat.cast_ofNat]

theorem cycle_eq (p : Params) : p.cycle = 600 * 2 ^ p.fracBits := by
  rw [Params.cycle, Params.fracUnit, Nat.cast_pow, Nat.cast_ofNat]

/-! ## The phases (40_oscillator_bank R123) -/

/-- Where phase and increment are in range, subtracting the cycle at most once is the remainder. -/
theorem advancePhase_eq_emod {p : Params} {x : Osc} (hp : p.Legal) (h : OscOk p x) :
    advancePhase p.cycle x = { x with phase := (x.phase + x.inc) % p.cycle } := by
  obtain ⟨⟨hphase0, hphase1⟩, ⟨hinc0, hinc1⟩, -⟩ := h
  have hinc : x.inc < p.cycle := hinc1.trans_lt hp.incMax.2
  rw [advancePhase]
  split
  · rw [← Int.sub_emod_right, Int.emod_eq_of_lt (by omega) (by omega)]
  · rw [Int.emod_eq_of_lt (by omega) (by omega)]

theorem phaseAdvance_osc {s : State} (h : Inv s) (o : Fin 8) :
    (phaseAdvance s).osc[o] =
      { s.osc[o] with phase := (s.osc[o].phase + s.osc[o].inc) % (600 * 2 ^ s.params.fracBits) } := by
  rw [← cycle_eq, ← advancePhase_eq_emod h.params (h.osc o)]
  exact Vector.getElem_map _ o.isLt

/-! ## The samples of the oscillators (40_oscillator_bank R124, R125) -/

theorem soundsSample_of_oscSample {s : State} {o : Fin 8} {x : Int} (h : oscSample o s = some x) :
    SoundsSample s o x := by
  unfold oscSample at h
  unfold SoundsSample
  split at h
  · next hs =>
    obtain ⟨⟨y, u⟩, hread, rfl⟩ := Option.map_eq_some_iff.1 h
    rw [phaseIndex_eq] at hread
    rw [if_pos hs]
    exact ⟨u, hread⟩
  · next hs =>
    rw [if_neg hs]
    exact (Option.some.inj h).symm

/-- In a legal state every oscillator has a sample. -/
theorem exists_oscSamples {s : State} (h : Inv s) : ∃ x : Vector Int 8, ∀ o : Fin 8, oscSample o s = some x[o] := by
  choose f hf using oscSample_ok h
  exact ⟨Vector.ofFn f, fun o => (hf o).1.trans (congrArg some (Vector.getElem_ofFn o.isLt).symm)⟩

theorem engineRaw_eq_average {s : State} {x : Vector Int 8} (hx : ∀ o : Fin 8, oscSample o s = some x[o]) (e : Fin 2) :
    engineRaw e s = some ((x[oscOf e 0] + x[oscOf e 1] + x[oscOf e 2] + x[oscOf e 3]) / 4) := by
  simp only [engineRaw, hx, Option.bind_eq_bind, Option.bind_some]
  rfl

section
variable {s : State} {e : Fin 2} (hw : s.engines[e].wave ≠ .noise) (f : Filter) (m : Mixer) (i : Inputs)
include hw

/-- The sample of a wave that is not noise reads nothing that the later stages of the tick write. -/
theorem oscSample_after_stages {o : Fin 8} (he : engineOf o = e) :
    oscSample o (((s.withFilter f).withMixer m).withInputs i) = oscSample o s := by
  subst he
  have hread : ∀ w : Wave, w ≠ .noise → ∀ j : Int,
      (wtRead w j (((s.withFilter f).withMixer m).withInputs i)).map (·.1) = (wtRead w j s).map (·.1) := by
    intro w hw j
    cases w with
    | noise => exact absurd rfl hw
    | _ => simp only [wtRead, Option.map_map]; rfl
  exact congrArg (fun y => if s.voices[voiceOf o].sounding then y else some Config.centre) (hread _ hw _)

theorem engineRaw_after_stages : engineRaw e (((s.withFilter f).withMixer m).withInputs i) = engineRaw e s := by
  simp only [engineRaw, oscSample_after_stages hw f m i (engineOf_oscOf e _)]

end

/-! ## The engines (41_audio_mixer R155) -/

/-- How many random words an engine takes in a tick: one for noise (log 5). -/
def noiseDraws (s : State) (e : Fin 2) : Nat := if s.engines[e].wave = .noise then 1 else 0

/-- The inputs after `n` words were taken from RND. -/
def Inputs.afterDraws (x : Inputs) (n : Nat) : Inputs := { x with rnd := x.rnd.drop n, drawCount := x.drawCount + n }

theorem Inputs.afterDraws_afterDraws (x : Inputs) (m n : Nat) :
    (x.afterDraws m).afterDraws n = x.afterDraws (m + n) := by
  simp only [Inputs.afterDraws, List.drop_drop, Nat.add_assoc]

/-- `idx` is an index of engine e into its volume table: any sample for noise, else the average of its oscillators. -/
def IndexesVolume (s : State) (e : Fin 2) (idx : Int) : Prop :=
  IsSample idx ∧ (s.engines[e].wave ≠ .noise → engineRaw e s = some idx)

/-- The word of engine e's volume table at an index. -/
def volumeWord (s : State) (e : Fin 2) (idx : Int) : Int := (s.mem.read (.vol e) idx.toNat).toNat

theorem engineIndex_eq {s : State} (h : Inv s) (e : Fin 2) :
    ∃ idx, IndexesVolume s e idx ∧
      engineIndex e s = some (idx, s.withInputs (s.inputs.afterDraws (noiseDraws s e))) := by
  by_cases hw : s.engines[e].wave = .noise
  · refine ⟨_, ⟨draw_bounds (lo := 0) (hi := Config.sampleMax) (by decide) s, fun hne => absurd hw hne⟩, ?_⟩
    rw [engineIndex, if_pos hw, noiseDraws, if_pos hw, Inputs.afterDraws, ← afterDraw_eq_drop]
    rfl
  · obtain ⟨idx, hidx, hsample⟩ := engineRaw_ok h e
    refine ⟨idx, ⟨hsample, fun _ => hidx⟩, ?_⟩
    rw [engineIndex, if_neg hw, hidx, noiseDraws, if_neg hw]
    rfl

/-- MemRead of a table of 4096 words at a sample. -/
theorem memRead_sample {T : Space} (hT : T.size = 4096) {x : Int} (hx : IsSample x) (s : State) :
    memRead T x s = some ((s.mem.read T x.toNat).toNat : Int) :=
  memRead_eq_some hx.1 (by rw [hT]; have := hx.2; omega)

theorem engineOut_eq {s : State} (h : Inv s) (e : Fin 2) :
    ∃ idx, IndexesVolume s e idx ∧
      engineOut e s = some (volumeWord s e idx, s.withInputs (s.inputs.afterDraws (noiseDraws s e))) := by
  obtain ⟨idx, hidx, hindex⟩ := engineIndex_eq h e
  refine ⟨idx, hidx, ?_⟩
  simp only [engineOut, hindex, Option.bind_eq_bind, Option.bind_some, memRead_sample (T := .vol e) rfl hidx.1]
  rfl

/-- The index of an engine is the average of its four samples, or any sample for noise. -/
theorem IndexesVolume.eq_average {s : State} {e : Fin 2} {idx : Int} (h : IndexesVolume s e idx) {x : Vector Int 8}
    (hx : ∀ o : Fin 8, oscSample o s = some x[o]) :
    if s.engines[e].wave = .noise then 0 ≤ idx ∧ idx ≤ 4095
    else idx = (x[oscOf e 0] + x[oscOf e 1] + x[oscOf e 2] + x[oscOf e 3]) / 4 := by
  obtain ⟨hsample, hraw⟩ := h
  split
  · exact hsample
  · next hw => exact Option.some.inj ((hraw hw).symm.trans (engineRaw_eq_average hx e))

/-! ## The filter (44_filter R243, R245) -/

/-- The filter's output before the clip. -/
def filterOut (s : State) (x : Int) : Int :=
  if s.filter.bypass then x else filterTap s.params s.filter x + 2048

/-- The filter after its step: only the two registers move, and only without bypass. -/
def filterAfter (s : State) (x : Int) : Filter :=
  { s.filter with
    lp0 := if s.filter.bypass then s.filter.lp0 else nextLp0 s.params s.filter x
    lp1 := if s.filter.bypass then s.filter.lp1 else nextLp1 s.params s.filter x }

theorem filterStep_eq (x : Int) (s : State) : filterStep x s = (filterOut s x, s.withFilter (filterAfter s x)) := by
  unfold filterStep filterOut filterAfter
  split <;> rfl

theorem filterInput_eq (f : Filter) (x : Int) :
    filterInput f x = if f.mode = .lowPass then (x - 2048) / 2 else x - 2048 := by
  unfold filterInput
  split <;> simp [*, asr]

theorem filterTap_eq (p : Params) (f : Filter) (x : Int) :
    filterTap p f x =
      if f.mode = .lowPass then nextLp1 p f x else if f.mode = .bandPass then bandPassTap f else highPassTap f x := by
  unfold filterTap
  split <;> simp [*]

/-! ## The load ramp (41_audio_mixer R168) -/

/-- One step of the load ramp, down while the load is muted and up while it is not. -/
theorem stepLoadRamp_loadRamp {s : State} (h : Inv s) :
    (stepLoadRamp s).mixer.loadRamp =
      if s.mixer.loadMute then max 0 (s.mixer.loadRamp - s.params.loadRampStep)
      else min 1023 (s.mixer.loadRamp + s.params.loadRampStep) := by
  obtain ⟨-, ⟨hramp0, hramp1⟩, -⟩ := h.mixer
  obtain ⟨hstep, -⟩ := h.params.ramp
  simp only [stepLoadRamp, State.withMixer_mixer, Config.gainMax]
  rw [clamp_eq_max_min (by decide)]
  split
  · rw [min_eq_right (by omega)]
  · rw [max_eq_right (by omega)]

/-! ## The tick in whole (41_audio_mixer R150) -/

/-- Stage s6: the mix of the two volumed samples through the amplitude chain and the shaper. -/
def shapedSample (s : State) (vol0 vol1 : Int) : Int :=
  (s.mem.read .shaper (amplitudeChain s (asr (vol0 + vol1) 1)).toNat).toNat

/-- Stage s9: a shaped sample through the filter, the clip and the gain table. -/
def gainedSample (s : State) (x : Int) : Int := (s.mem.read .gain (clamp 0 Config.sampleMax (filterOut s x)).toNat).toNat

/-- The sample a tick puts out. -/
def tickSample (s : State) (vol0 vol1 : Int) : Int :=
  outputGain (stepLoadRamp s) (gainedSample s (shapedSample s vol0 vol1))

theorem tickSample_isSample {s : State} (h : Inv s) (vol0 vol1 : Int) : IsSample (tickSample s vol0 vol1) := by
  obtain ⟨-, hramp, hmaster⟩ := h.stepLoadRamp.mixer
  exact cmul_isSample (cmul_isSample (sample_isSample _) hramp) hmaster

/-- The state after a tick with these volumed samples. -/
def audioTicked (s : State) (vol0 vol1 : Int) : State :=
  (((s.withOsc (phaseAdvance s).osc).withFilter (filterAfter s (shapedSample s vol0 vol1))).withMixer
    { s.mixer with
      loadRamp := (stepLoadRamp s).mixer.loadRamp
      outL := BitVec.ofInt 12 (tickSample s vol0 vol1)
      outR := BitVec.ofInt 12 (tickSample s vol0 vol1) }).withInputs
    (s.inputs.afterDraws (noiseDraws s 0 + noiseDraws s 1))

theorem volumeWord_isSample (s : State) (e : Fin 2) (idx : Int) : IsSample (volumeWord s e idx) := sample_isSample _

theorem mix_isSample {x y : Int} (hx : IsSample x) (hy : IsSample y) : IsSample (asr (x + y) 1) := by
  simp only [IsSample, asr] at *
  omega

/-- The stages after the engines read nothing that the engines or the phases have written. -/
theorem audioTickStep_of_engineOut {s : State} (h : Inv s) {vol0 vol1 : Int} {i : Inputs}
    (h0 : IsSample vol0) (h1 : IsSample vol1)
    (e0 : engineOut 0 (phaseAdvance s) = some (vol0, (phaseAdvance s).withInputs i))
    (e1 : engineOut 1 ((phaseAdvance s).withInputs i) =
      some (vol1, (phaseAdvance s).withInputs (s.inputs.afterDraws (noiseDraws s 0 + noiseDraws s 1)))) :
    audioTickStep s = some (audioTicked s vol0 vol1) := by
  generalize hb : (phaseAdvance s).withInputs (s.inputs.afterDraws (noiseDraws s 0 + noiseDraws s 1)) = b at e1
  have hshaper : memRead .shaper (amplitudeChain b (asr (vol0 + vol1) 1)) b = some (shapedSample s vol0 vol1) := by
    rw [← hb]
    exact memRead_sample rfl (amplitudeChain_isSample h (mix_isSample h0 h1)) _
  have hgain : ∀ x, memRead .gain (clamp 0 Config.sampleMax (filterOut b x)) (b.withFilter (filterAfter b x)) =
      some (gainedSample s x) := fun x => by
    rw [← hb]
    exact memRead_sample rfl (clamp_bounds (by decide) _) _
  simp only [audioTickStep, e0, e1, Option.bind_eq_bind, Option.bind_some, filterStep_eq, hshaper, hgain]
  rw [← hb]
  rfl

/-- In a legal state a tick draws an index per noise engine and answers the state written out above. -/
theorem exec_audioTick {s : State} (h : Inv s) :
    ∃ idx0 idx1, IndexesVolume (phaseAdvance s) 0 idx0 ∧ IndexesVolume (phaseAdvance s) 1 idx1 ∧
      exec .audioTick s = .next (audioTicked s (volumeWord s 0 idx0) (volumeWord s 1 idx1)) := by
  have ha := h.phaseAdvance
  obtain ⟨idx0, hidx0, e0⟩ := engineOut_eq ha 0
  obtain ⟨idx1, ⟨hsample1, hraw1⟩, e1⟩ := engineOut_eq (ha.withInputs (x := s.inputs.afterDraws (noiseDraws s 0))) 1
  refine ⟨idx0, idx1, hidx0, ⟨hsample1, fun hw => ?_⟩, ?_⟩
  · exact (engineRaw_after_stages hw (phaseAdvance s).filter (phaseAdvance s).mixer _).symm.trans (hraw1 hw)
  · rw [State.withInputs_inputs, Inputs.afterDraws_afterDraws] at e1
    rw [exec, execAudioTick,
      audioTickStep_of_engineOut h (volumeWord_isSample ..) (volumeWord_isSample ..) e0 e1]
    rfl

/-! ## The obligations -/

/-- Settles O36: `audioTicked` writes these parts only. -/
theorem audioTickWritesOnlyAudioState : Obligations.AudioTickWritesOnlyAudioState := by
  refine ⟨⟨by decide, rfl⟩, fun s hs => ?_⟩
  obtain ⟨idx0, idx1, -, -, hexec⟩ := exec_audioTick hs
  generalize volumeWord s 0 idx0 = vol0, volumeWord s 1 idx1 = vol1 at hexec
  let f := filterAfter s (shapedSample s vol0 vol1)
  refine ⟨_, (phaseAdvance s).osc, f.lp0, f.lp1, BitVec.ofInt 12 (tickSample s vol0 vol1), hexec, ?_,
    phaseAdvance_osc hs⟩
  rw [← stepLoadRamp_loadRamp hs]
  rfl

/-- Settles O37: the oscillators are read off the state with the phases advanced, the stages are followed by name. -/
theorem audioTickRunsTheWholeChain : Obligations.AudioTickRunsTheWholeChain := by
  intro s hs
  obtain ⟨idx0, idx1, hidx0, hidx1, hexec⟩ := exec_audioTick hs
  obtain ⟨x, hx⟩ := exists_oscSamples hs.phaseAdvance
  refine ⟨_, x, idx0, idx1, hexec, fun o => ⟨?phase, fun hw => ?sounds⟩, hidx0.eq_average hx,
    hidx1.eq_average hx, ?chain⟩
  case phase => exact congrArg Osc.phase (phaseAdvance_osc hs o)
  case sounds =>
    exact soundsSample_of_oscSample
      ((oscSample_after_stages (s := phaseAdvance s) hw _ _ _ rfl).trans (hx o))
  case chain =>
    intro vol0 vol1 s1 s2 s3 s4 s5 s6 one inn hp bp n0 n1 tap s8 s9 ramp
    have hs6 : shapedSample s vol0 vol1 = s6 := rfl
    have hhp : highPassTap s.filter s6 = hp := by rw [highPassTap, filterInput_eq]
    have hn0 : nextLp0 s.params s.filter s6 = n0 := by rw [nextLp0, wrap32_eq_bmod, hhp]; rfl
    have hn1 : nextLp1 s.params s.filter s6 = n1 := by rw [nextLp1, wrap32_eq_bmod, hn0]; rfl
    have htap : filterTap s.params s.filter s6 = tap := by rw [filterTap_eq, hn1, hhp]; rfl
    have hs9 : gainedSample s s6 = s9 := by rw [gainedSample, filterOut, htap]; rfl
    have hramp : (stepLoadRamp s).mixer.loadRamp = ramp := stepLoadRamp_loadRamp hs
    have hout : tickSample s vol0 vol1 = scaled (scaled s9 ramp) s.mixer.masterVol := by
      rw [tickSample, hs6, hs9, outputGain, hramp, cmul_eq_scaled, cmul_eq_scaled]; rfl
    refine ⟨?lp0, ?lp1, ?out, rfl⟩
    case lp0 => rw [← hn0]; rfl
    case lp1 => rw [← hn1]; rfl
    case out => rw [← hout]; exact ofInt_sample (tickSample_isSample hs vol0 vol1)

end Sys2Proof.Machine
end

section
/-! PROOFS. The settings of the mixer and of the envelope (41_audio_mixer R158, R167, R169, 42_envelope R181 to R184):
each stores its operand, read by its form and clamped, in one field. -/

namespace Sys2Proof.Machine

/-! ## Flags (30_encoding R104) -/

/-- Every operand but 0 is clamped to 1, so a flag is set by any of them. -/
theorem flagOperand_eq_decide_ne_zero (data : DataField) : flagOperand data = decide (data ≠ 0) := by
  rw [flagOperand, uOperand_zero_eq_min, decide_eq_decide]
  have hzero : data = 0 ↔ data.toNat = 0 := BitVec.toNat_eq
  rw [ne_eq, hzero, uData]
  omega

/-! ## The obligation -/

/-- Settles O22: the clamped operands are minima, the durations are the operand itself. -/
theorem mixerAndEnvelopeSettingsAreStored : Obligations.MixerAndEnvelopeSettingsAreStored := by
  refine fun s data => ⟨?bitMunch, ?loadMute, ?masterVol, ?attack, ?decay, ?sustain, ?release⟩
  case bitMunch => rw [exec, execSetBitmunch, countOperand_zero_eq_min]; rfl
  case loadMute => rw [exec, execLoadMute, flagOperand_eq_decide_ne_zero]; rfl
  case masterVol => rw [exec, execSetMasterVol, uOperand_zero_eq_min]; rfl
  case attack => rw [exec, execSetAttack, durationOperand]; rfl
  case decay => rw [exec, execSetDecay, durationOperand]; rfl
  case sustain => rw [exec, execSetSustain, uOperand_zero_eq_min]; rfl
  case release => rw [exec, execSetRelease, durationOperand]; rfl

end Sys2Proof.Machine
end

section
/-! PROOFS. The envelope (42_envelope R185 to R194) and the velocity modulation its trigger queues (49_voice_allocator
R396): what a trigger, a release and each stage's evaluation write. -/

namespace Sys2Proof.Machine

/-! ## Modulation outputs (42_envelope R194, 49_voice_allocator R396) -/

/-- Settles O33: the model's shifts are floored divisions by powers of two, its depths are words of the matrix. -/
theorem modulationScalesWithDepth : Obligations.ModulationScalesWithDepth := by
  refine ⟨by decide, fun s => ?velocity, fun s => ?envelope⟩
  case velocity =>
    have hfull : Config.velMax * Config.gainMax = 129921 := by decide
    simp only [queueVelocity, asr_eq, hfull]
    rfl
  case envelope =>
    simp only [envOutputs, asr_eq]
    rfl

/-- A silent envelope modulates nothing, whatever the depths. -/
theorem envOutputs_of_amp_zero {s : State} (h : s.env.amp = 0) :
    envOutputs s = s.withEnvMod { pitch := #v[0, 0], cut := 0, rate := 0 } := by
  simp only [envOutputs, h, asr_eq, zero_mul, Int.zero_ediv]

/-! ## Trigger (42_envelope R185 to R187) -/

/-- The mark decides: a marked voice falls silent, an unmarked one sounds on as it did. -/
theorem applyMute_eq (x : Voice) :
    applyMute x = { x with sounding := if x.muteOnTrig then false else x.sounding, muteOnTrig := false } := by
  cases h : x.muteOnTrig <;> simp [applyMute, h]

theorem retrigLfo_eq (s : State) :
    retrigLfo s = s.withLfo (if s.lfo.retrig then { s.lfo with index := 0, counter := 0 } else s.lfo) := by
  unfold retrigLfo
  split <;> rfl

theorem enterAttack_entersAttack (s : State) : EntersAttack s (enterAttack s) := by
  refine ⟨s.voices.map applyMute, fun v => ?voice, ?state⟩
  case voice => exact (Vector.getElem_map _ v.isLt).trans (applyMute_eq _)
  case state => simp only [enterAttack, retrigLfo_eq]; rfl

theorem envTrigStep_triggerStepped (s : State) : TriggerStepped s (envTrigStep s) := by
  unfold TriggerStepped envTrigStep
  split
  · rfl
  · exact enterAttack_entersAttack s

/-- The velocity is queued before the trigger is pending; neither write sees the other. -/
theorem envTriggerWith_triggered (vel : Int) (s : State) : Triggered vel s (envTriggerWith vel s) :=
  envTrigStep_triggerStepped _

theorem velOperand_eq_min (data : DataField) : velOperand data = min 127 (uData data) := uOperand_zero_eq_min _ data

/-! ## Release (42_envelope R192) -/

/-- Either outcome replaces the envelope's record only, so the choice can be made inside it. -/
theorem envReleaseNow_released (s : State) : Released s (envReleaseNow s) := by
  rw [Released, apply_ite s.withEnv]; rfl

/-- Settles O34: the operand is the velocity clamped above, the two procedures answer the states written out above. -/
theorem envelopeIsTriggeredAndReleased : Obligations.EnvelopeIsTriggeredAndReleased := by
  refine ⟨by decide, fun s data => ⟨envTriggerWith (velOperand data) s, rfl, ?trigger⟩,
    fun s => ⟨envReleaseNow s, rfl, envReleaseNow_released s⟩⟩
  case trigger => rw [velOperand_eq_min]; exact envTriggerWith_triggered _ s

/-! ## Segments (42_envelope R188 to R190) -/

theorem segmentOver_iff {dur : Nat} {s : State} :
    segmentOver dur s = true ↔ dur = 0 ∨ dur ≤ (s.inputs.now - s.env.t0).toNat := by
  rw [segmentOver, Bool.or_eq_true, decide_eq_true_eq, decide_eq_true_eq]; rfl

/-- A segment that is over hands its end level to the next stage, a running one is a point of its line: either way only
the envelope's own record is written. -/
theorem segment_eq (next : Stage) (a b : Int) (dur : Nat) (s : State) :
    (if segmentOver dur s then enterStage next b s else rampTo a b dur s) =
      s.withEnv
        (if dur = 0 ∨ dur ≤ (s.inputs.now - s.env.t0).toNat then
          { s.env with amp := b, stage := next, start := b, t0 := s.inputs.now }
        else { s.env with amp := a + (b - a) * ((s.inputs.now - s.env.t0).toNat : Int) / (dur : Int) }) := by
  simp only [segmentOver_iff]
  split <;> rfl

/-! ## Completion (42_envelope R193) -/

/-- The completed envelope's outputs are 0, its voices and held keys are let go. -/
theorem envComplete_eq (s : State) :
    envComplete s =
      ((updateFilterCoef ((s.withEnv { s.env with amp := 0, stage := .idle }).withEnvMod
        { pitch := #v[0, 0], cut := 0, rate := 0 })).withVoices (s.voices.map clearVoice)).withAlloc
          { s.alloc with held := [] } := by
  rw [envComplete, envOutputs_of_amp_zero rfl]; rfl

/-! ## ENV_TICK (42_envelope R188) -/

theorem exec_envTick (s : State) : exec .envTick s = .next (envTickStep s) := rfl

theorem envTickStep_of_trigPending {s : State} (h : s.env.trigPending = true) : envTickStep s = envTrigStep s :=
  if_pos h

section
variable {s : State} (hpending : s.env.trigPending = false)
include hpending

theorem envTickStep_idle (h : s.env.stage = .idle) : envTickStep s = s := by
  simp [envTickStep, hpending, h]

theorem envTickStep_attack (h : s.env.stage = .attack) :
    envTickStep s = envEvaluated
      (if segmentOver s.env.attack s then enterStage .decay Config.gainMax s
       else rampTo s.env.start Config.gainMax s.env.attack s) := by
  simp [envTickStep, hpending, h]

theorem envTickStep_decay (h : s.env.stage = .decay) :
    envTickStep s = envEvaluated
      (if segmentOver s.env.decay s then enterStage .sustain s.env.sustain s
       else rampTo s.env.start s.env.sustain s.env.decay s) := by
  simp [envTickStep, hpending, h]

theorem envTickStep_sustain (h : s.env.stage = .sustain) :
    envTickStep s = envEvaluated (s.withEnv { s.env with amp := s.env.sustain }) := by
  simp [envTickStep, hpending, h]

theorem envTickStep_release (h : s.env.stage = .release) :
    envTickStep s =
      if segmentOver s.env.release s then envComplete s else envEvaluated (rampTo s.env.start 0 s.env.release s) := by
  simp [envTickStep, hpending, h]

end

/-- Settles O35, by the stage: Attack and Decay are one segment each, Release runs or completes. -/
theorem envTickEvaluatesTheStage : Obligations.EnvTickEvaluatesTheStage := by
  intro s el
  refine ⟨fun hpending => ⟨envTrigStep s, ?pending, envTrigStep_triggerStepped s⟩, fun hpending =>
    ⟨fun hidle => ?idle, fun hattack => ?attack, fun hdecay => ?decay, fun hsustain => ?sustain,
      fun hrelease hpos hrunning => ?running, fun hrelease hover => ?complete⟩⟩
  case pending => rw [exec_envTick, envTickStep_of_trigPending hpending]
  case idle => rw [exec_envTick, envTickStep_idle hpending hidle]
  case attack => rw [exec_envTick, envTickStep_attack hpending hattack, segment_eq]; rfl
  case decay => rw [exec_envTick, envTickStep_decay hpending hdecay, segment_eq]; rfl
  case sustain => rw [exec_envTick, envTickStep_sustain hpending hsustain]; rfl
  case running =>
    have hnot : ¬ segmentOver s.env.release s = true := fun h =>
      (segmentOver_iff.1 h).elim hpos.ne' hrunning.not_ge
    rw [exec_envTick, envTickStep_release hpending hrelease, if_neg hnot]; rfl
  case complete =>
    refine ⟨s.voices.map clearVoice, ?_, fun v => Vector.getElem_map _ v.isLt⟩
    rw [exec_envTick, envTickStep_release hpending hrelease, if_pos (segmentOver_iff.2 hover), envComplete_eq]

end Sys2Proof.Machine
end

section
/-! PROOFS. The LFO (43_lfo): the settings of the LFO and of the transport (R228, R232 to R236, 47_sequencer R303, R304,
R334), the outputs derived from the LFO's value (R220 to R226, R237), and the tick (R214 to R217, R230). -/

namespace Sys2Proof.Machine

/-! ## The settings (R228, R232 to R236, 47_sequencer R303, R304, R334) -/

/-- The six sync modes in the order 10_state R38 numbers them. -/
theorem lfoSyncOperand_eq_getD (data : DataField) :
    lfoSyncOperand data =
      [LfoSync.free, .eighth, .quarter, .half, .whole, .doubleWhole].getD (min 5 data.toNat) .free := by
  unfold lfoSyncOperand
  split
  case h_6 h0 h1 h2 h3 h4 =>
    rw [imp_false] at h0 h1 h2 h3 h4
    rw [Nat.min_eq_left (by omega)]; rfl
  all_goals next hn => rw [hn]; rfl

/-- The six play modes in the order 47_sequencer R304 numbers them. -/
theorem playModeOperand_eq_getD (data : DataField) :
    playModeOperand data =
      [PlayMode.forward, .reverse, .pendulum, .randomInterval, .drunk, .random].getD (min 5 data.toNat) .random := by
  unfold playModeOperand
  split
  case h_6 h0 h1 h2 h3 h4 =>
    rw [imp_false] at h0 h1 h2 h3 h4
    rw [Nat.min_eq_left (by omega)]; rfl
  all_goals next hn => rw [hn]; rfl

/-- SEQ_SELECT of a sequence that exists. -/
theorem exec_seqSelect {sel : SelField} {q : Fin 8} (h : sel.toNat = q.val) (s : State) :
    exec (.seqSelect sel) s = .next (s.withSeq { s.seq with sel := q }) := by
  rw [exec, execSeqSelect, selOperand_of_toNat_eq h]; rfl

/-- Settles O23: each operand by its form, the counters of LFO_SYNC_RESET by its procedure. -/
theorem lfoAndTransportSettingsAreStored : Obligations.LfoAndTransportSettingsAreStored := by
  refine fun s data sel step q =>
    ⟨?shape, rfl, ?range, ?retrig, ?sync, rfl, fun h => exec_seqSelect h s, ?playMode, ?edit⟩
  case shape => rw [exec, execSetLfoShape, waveOperand_eq_getD]; rfl
  case range => rw [exec, execSetLfoRange, countOperand_zero_eq_min]; rfl
  case retrig => rw [exec, execSetLfoRetrig, flagOperand_eq_decide_ne_zero]; rfl
  case sync => rw [exec, execSetLfoSync, lfoSyncOperand_eq_getD]; rfl
  case playMode => rw [exec, execSetPlayMode, playModeOperand_eq_getD]; rfl
  case edit => rw [exec, execSeqEdit, flagOperand_eq_decide_ne_zero]; rfl

/-! ## The outputs (R220 to R226, R237) -/

section
variable {s : State}

/-- The outputs that are derived in every stage of the envelope, beside the octave offsets `oct`. -/
def lfoModWith (s : State) (oct : Vector Int 2) : LfoMod where
  pitch := #v[lfoPitchOut s.params (lfoLevel s) (s.depth .lfoPitch1),
    lfoPitchOut s.params (lfoLevel s) (s.depth .lfoPitch2)]
  cut := asr (lfoLevel s * s.depth .lfoCut) s.params.lfoCutShift
  ampMod := asr (s.lfo.val * s.depth .lfoAmp) s.params.lfoAmpShift
  pw := asr (lfoLevel s * s.depth .lfoPw) s.params.lfoPwShift
  oct := oct

/-- The octave offsets of the two engines. -/
def lfoOctOffsets (s : State) : Vector Int 2 :=
  #v[asr (lfoLevel s * s.depth .lfoOct1) s.params.lfoOctShift,
    asr (lfoLevel s * s.depth .lfoOct2) s.params.lfoOctShift]

/-- In Idle the octave offsets keep their last value and the increments are left alone (R226). -/
theorem lfoOutputs_of_idle (h : s.env.stage = .idle) :
    lfoOutputs s = updatePulseWidth (updateFilterCoef (s.withLfoMod (lfoModWith s s.lfoMod.oct))) :=
  if_pos h

/-- Outside Idle the octave offsets are derived as well; the coefficients and the pulse width do not read them, so it is
as if all outputs were derived first. -/
theorem lfoOutputs_of_not_idle (h : s.env.stage ≠ .idle) :
    lfoOutputs s =
      deriveIncrements (updatePulseWidth (updateFilterCoef (s.withLfoMod (lfoModWith s (lfoOctOffsets s))))) :=
  if_neg h

end

/-- SET_MOD of a slot that exists. -/
theorem exec_setMod {sel : SelField} {k : Fin 17} (h : sel.toNat = k.val) (data : DataField) (s : State) :
    exec (.setMod sel data) s =
      .next (lfoOutputs (s.withMatrix (s.matrix.set k (uOperand 0 Config.gainMax data)))) := by
  rw [exec, execSetMod, selOperand_of_toNat_eq h]; rfl

/-- Settles O32, by whether the envelope is Idle. -/
theorem setModDerivesLfoOutputs : Obligations.SetModDerivesLfoOutputs := by
  refine ⟨by decide, fun s => ?outputs, fun s k sel data h => ?setMod⟩
  case outputs =>
    intro d L p boost out
    by_cases hidle : s.env.stage = .idle
    · have hout : out = s.withLfoMod (lfoModWith s s.lfoMod.oct) := by simp only [out, if_pos hidle]; rfl
      rw [if_pos hidle, lfoOutputs_of_idle hidle, hout]
    · have hout : out = s.withLfoMod (lfoModWith s (lfoOctOffsets s)) := by simp only [out, if_neg hidle]; rfl
      rw [if_neg hidle, lfoOutputs_of_not_idle hidle, hout]
  case setMod => rw [exec_setMod h, uOperand_zero_eq_min]; rfl

/-! ## The UI counters (R230) -/

/-- A counter below its divider starts over exactly where it reaches the divider. -/
theorem restart_iff {n d : Nat} (h : n < d) : d ≤ n + 1 ↔ n + 1 = d := by omega

theorem restart_eq_mod {n d : Nat} (h : n < d) : (if d ≤ n + 1 then 0 else n + 1) = (n + 1) % d := by
  split
  · next hle => rw [(restart_iff h).1 hle, Nat.mod_self]
  · next hlt => exact (Nat.mod_eq_of_lt (by omega)).symm

/-- UiCounters in whole, in a legal state. -/
theorem uiTick_eq {p : Params} {u : Ui} (h : UiOk p u) :
    uiTick p u =
      { uiCounter := (u.uiCounter + 1) % p.uiRefreshDiv
        refreshDue := u.refreshDue || decide (u.uiCounter + 1 = p.uiRefreshDiv)
        arrowCounter := (u.arrowCounter + 1) % p.arrowDiv
        arrowFrame := if u.arrowCounter + 1 = p.arrowDiv then (u.arrowFrame + 1) % 256 else u.arrowFrame
        blinkCounter := (u.blinkCounter + 1) % p.blinkDiv
        blinkOn := if u.blinkCounter + 1 = p.blinkDiv then !u.blinkOn else u.blinkOn } := by
  obtain ⟨hui, harrow, hblink, -⟩ := h
  rw [← restart_eq_mod hui, ← restart_eq_mod harrow, ← restart_eq_mod hblink]
  simp only [uiTick, restart_iff hui, restart_iff harrow, restart_iff hblink]

/-! ## The target (R214, R215, R216) -/

/-- What is given for each division of a synced LFO, one division after the other. -/
theorem LfoSync.apply_eq_ite {α : Type} (f : LfoSync → α) {m : LfoSync} (h : m ≠ .free) :
    f m =
      if m = .eighth then f .eighth else if m = .quarter then f .quarter else if m = .half then f .half
      else if m = .whole then f .whole else f .doubleWhole := by
  cases m with
  | free => exact absurd rfl h
  | _ => rfl

/-- The target in use with the pulses of a division written out. -/
theorem lfoTarget_eq (s : State) :
    lfoTarget s =
      (let p := s.params
       let pulses := if s.lfo.sync = .eighth then p.syncPulses[0] else if s.lfo.sync = .quarter then p.syncPulses[1]
         else if s.lfo.sync = .half then p.syncPulses[2] else if s.lfo.sync = .whole then p.syncPulses[3]
         else p.syncPulses[4]
       if s.lfo.sync = .free then within p.lfoTicksMin s.lfo.rate (s.lfo.rate - s.envMod.rate - s.vel.rate)
       else max 1 (((s.clock.periodUs * pulses * p.lfoTickHz : Nat) : Int) / 600000000)) := by
  by_cases hfree : s.lfo.sync = .free
  · simp only [lfoTarget, if_pos hfree]; rfl
  · simp only [lfoTarget, if_neg hfree, syncTarget, LfoSync.apply_eq_ite (syncPulses s.params) hfree]; rfl

/-! ## The tick (R217) -/

/-- The inputs after a wavetable was read: noise takes one random word (log 5). -/
def Inputs.afterRead (w : Wave) (x : Inputs) : Inputs := if w = .noise then x.afterDraw else x

/-- A read of a wavetable does not depend on the UI counters and the LFO, and changes the draws only. -/
theorem exists_wtRead (w : Wave) {i : Nat} (hi : i < 600) (s : State) :
    ∃ x, ∀ (u : Ui) (l : Lfo), wtRead w i ((s.withUi u).withLfo l) =
      some (x, ((s.withUi u).withLfo l).withInputs (s.inputs.afterRead w)) := by
  cases w with
  | sine => exact ⟨_, fun u l => wtRead_sine hi _⟩
  | triangle => exact ⟨_, fun u l => wtRead_triangle hi _⟩
  | saw => exact ⟨_, fun u l => wtRead_saw hi _⟩
  | square => exact ⟨squareEntry s.pw.edge i, fun u l => wtRead_square _ _⟩
  | user1 => exact ⟨(s.mem.read (.user 0) i).toNat, fun u l => wtRead_user1 hi _⟩
  | user2 => exact ⟨(s.mem.read (.user 1) i).toNat, fun u l => wtRead_user2 hi _⟩
  | user3 => exact ⟨(s.mem.read (.user 2) i).toNat, fun u l => wtRead_user3 hi _⟩
  | noise => exact ⟨s.inputs.rndWord.toNat, fun u l => wtRead_noise _ _⟩

theorem lfoTickStep_of_lt {s : State} (h : (s.lfo.counter : Int) + 1 < lfoTarget s) :
    lfoTickStep s = some ((s.withUi (uiTick s.params s.ui)).withLfo { s.lfo with counter := s.lfo.counter + 1 }) :=
  if_neg (not_le.2 h)

/-- The advance with the sample it reads. -/
theorem lfoAdvance_of_wtRead {s t : State} {x : Int}
    (h : wtRead s.lfo.shape ((s.lfo.index + 1) % 600 : Nat)
      (s.withLfo { s.lfo with counter := 0, index := (s.lfo.index + 1) % 600 }) = some (x, t)) :
    lfoAdvance s = some (lfoOutputs (t.withLfo { t.lfo with val := x })) := by
  simp only [lfoAdvance, Config.tableLen, State.withLfo_lfo, h, Option.bind_eq_bind, Option.bind_some]
  rfl

theorem lfoTickStep_of_wtRead {s t : State} {x : Int} (h : lfoTarget s ≤ (s.lfo.counter : Int) + 1)
    (hread : wtRead s.lfo.shape ((s.lfo.index + 1) % 600 : Nat)
      ((s.withUi (uiTick s.params s.ui)).withLfo { s.lfo with counter := 0, index := (s.lfo.index + 1) % 600 }) =
        some (x, t)) :
    lfoTickStep s = some (lfoOutputs (t.withLfo { t.lfo with val := x })) :=
  (if_pos h).trans (lfoAdvance_of_wtRead hread)

/-- Settles O39: the target decides, the advance reads the next entry. -/
theorem lfoTickCountsAndAdvances : Obligations.LfoTickCountsAndAdvances := by
  refine ⟨by decide, fun s hs => ?_⟩
  intro p pulses target u
  have htarget : lfoTarget s = target := lfoTarget_eq s
  have hui : s.withUi (uiTick s.params s.ui) = u := by rw [uiTick_eq hs.ui]
  rw [← htarget]
  refine ⟨fun hlt => ?counts, fun hle => ?advances⟩
  case counts => rw [exec, execLfoTick, lfoTickStep_of_lt hlt, hui]; rfl
  case advances =>
    intro drawn
    have hdrawn : s.inputs.afterRead s.lfo.shape = drawn := by rw [Inputs.afterRead, afterDraw_eq_drop]
    obtain ⟨x, hx⟩ := exists_wtRead s.lfo.shape (Nat.mod_lt (s.lfo.index + 1) (by decide : 0 < 600)) s
    rw [hdrawn] at hx
    refine ⟨x, hx s.ui s.lfo, ?_⟩
    rw [exec, execLfoTick, lfoTickStep_of_wtRead hle (hx _ _), ← hui]
    rfl

end Sys2Proof.Machine
end

section
/-! PROOFS. The clock tick (46_clock R275 to R281): what each stage before and after the dispatch writes, and which of the
three engines the dispatch runs. -/

namespace Sys2Proof.Machine

/-! ## Before the dispatch (R276 to R278, 43_lfo R229) -/

/-- On pulse 0 a synced LFO counts an eighth, and restarts where its division is full. -/
theorem lfoSyncPoint_eq (s : State) :
    lfoSyncPoint s = s.withLfo
      (if s.clock.pulse = 0 ∧ s.lfo.sync ≠ .free then
        (if syncEighths s.params s.lfo.sync ≤ s.lfo.eighthSync + 1 then
          { s.lfo with index := 0, counter := 0, eighthSync := 0 }
        else { s.lfo with eighthSync := s.lfo.eighthSync + 1 })
      else s.lfo) := by
  by_cases hzero : s.clock.pulse = 0
  · by_cases hfree : s.lfo.sync = .free
    · rw [if_neg fun h => h.2 hfree, lfoSyncPoint, if_pos hzero, clockLfoSync, if_pos hfree]; rfl
    · rw [if_pos ⟨hzero, hfree⟩, lfoSyncPoint, if_pos hzero, clockLfoSync, if_neg hfree, apply_ite s.withLfo]; rfl
  · rw [if_neg fun h => hzero h.1, lfoSyncPoint, if_neg hzero]; rfl

/-- MIDI clock out writes its phase and its count only. -/
theorem midiClockStep_eq (s : State) :
    midiClockStep s =
      (s.withOutbox { s.outbox with
        clock := if s.clock.midiClockOut = true ∧ s.clock.outClockPhase = 0 then min 255 (s.outbox.clock + 1)
          else s.outbox.clock }).withClock
      { s.clock with
        outClockPhase := if s.clock.midiClockOut then (s.clock.outClockPhase + 1) % 24 else s.clock.outClockPhase } := by
  by_cases hout : s.clock.midiClockOut = true
  · by_cases hphase : s.clock.outClockPhase = 0
    · rw [midiClockStep, if_pos hout, emitMidiClock, if_pos hphase, if_pos ⟨hout, hphase⟩, if_pos hout]; rfl
    · rw [midiClockStep, if_pos hout, emitMidiClock, if_neg hphase, if_neg fun h => hphase h.2, if_pos hout]; rfl
  · rw [midiClockStep, if_neg hout, if_neg fun h => hout h.1, if_neg hout]; rfl

/-! ## The dispatch (R279) -/

section
variable {s m : State} (hm : clockDispatch s = some m)
include hm

theorem clockDispatch_of_arp (harp : s.arp.on = true) : m = arpDispatch (setFreeLatch false s) := by
  rw [clockDispatch, if_pos harp] at hm
  exact (Option.some.inj hm).symm

theorem clockDispatch_of_seq (harp : s.arp.on = false) (hseq : s.seq.running = true) :
    seqDispatch (setFreeLatch false s) = some m := by
  rwa [clockDispatch, if_neg (Bool.eq_false_iff.1 harp), if_pos hseq] at hm

theorem clockDispatch_of_free (harp : s.arp.on = false) (hseq : s.seq.running = false) : m = freePlay s := by
  rw [clockDispatch, if_neg (Bool.eq_false_iff.1 harp), if_neg (Bool.eq_false_iff.1 hseq)] at hm
  exact (Option.some.inj hm).symm

end

/-! ## After the dispatch (R281) -/

/-- Either outcome replaces the clock's record only, so the choice can be made inside it. -/
theorem pulseAdvance_eq (s : State) :
    pulseAdvance s = s.withClock
      (if 2 * s.clock.div ≤ s.clock.pulse + 1 then
        { s.clock with pulse := 0, eighth := (s.clock.eighth + 1) % 4294967296 }
      else { s.clock with pulse := s.clock.pulse + 1 }) := by
  rw [apply_ite s.withClock]; rfl

/-! ## The obligation -/

/-- Settles O43: the state before the dispatch is legal, so the dispatch completes. -/
theorem clockTickDispatchesAndAdvances : Obligations.ClockTickDispatchesAndAdvances := by
  refine ⟨rfl, fun s hs => ?_⟩
  intro eighths division lfo c pre live
  have hlfo : lfoSyncPoint s = s.withLfo lfo := by
    rw [lfoSyncPoint_eq]
    by_cases hsync : s.clock.pulse = 0 ∧ s.lfo.sync ≠ .free
    · simp only [lfo, if_pos hsync, LfoSync.apply_eq_ite (syncEighths s.params) hsync.2]; rfl
    · simp only [lfo, if_neg hsync]
  have hpre : beatStep (midiClockStep (lfoSyncPoint s)) = pre := by
    rw [hlfo, midiClockStep_eq]; rfl
  obtain ⟨m, hm, -⟩ := hs.lfoSyncPoint.midiClockStep.beatStep.clockDispatch
  refine ⟨m, pulseAdvance m, ?exec, ?arp, ?seq, ?free, pulseAdvance_eq m⟩
  case exec => rw [exec, execClockTick, clockTickStep, hm]; rfl
  all_goals rw [hpre] at hm
  case arp => exact clockDispatch_of_arp hm
  case seq => exact clockDispatch_of_seq hm
  case free => exact clockDispatch_of_free hm

end Sys2Proof.Machine
end

section
/-! PROOFS. The settings of the filter and the coefficients derived from them (44_filter R246 to R251): the fixed-point
range and the feedback formula with their numbers written out, and the mode each operand selects. -/

namespace Sys2Proof.Machine

/-! ## The coefficients (R246, R247) -/

theorem coefMax_eq (p : Params) : p.coefMax = 2 ^ p.fxShift - 1 := by
  rw [Params.coefMax, Nat.cast_pow, Nat.cast_ofNat]

theorem effectiveCutoff_eq_within (s : State) :
    effectiveCutoff s =
      within 0 (2 ^ s.params.fxShift - 1) (s.filter.cutoff + s.envMod.cut + s.vel.cut + s.lfoMod.cut) := by
  rw [effectiveCutoff, coefMax_eq]; rfl

theorem feedback_eq (p : Params) (resonance cutEff : Int) :
    feedback p resonance cutEff = resonance + resonance * (p.fxUnity - cutEff / 128) / 2 ^ p.fxShift := by
  rw [feedback, asr_eq, Config.cutFbDiv]

/-! ## The mode (R250) -/

/-- The three modes in the order 44_filter R244 numbers them; every operand above 1 selects the last. -/
theorem filterModeOperand_eq_ite (data : DataField) :
    filterModeOperand data = if data = 0 then .lowPass else if data = 1 then .bandPass else .highPass := by
  have hzero : data = 0 ↔ data.toNat = 0 := BitVec.toNat_eq
  have hone : data = 1 ↔ data.toNat = 1 := BitVec.toNat_eq
  simp only [hzero, hone]
  unfold filterModeOperand
  split
  case h_1 h0 => rw [if_pos h0]
  case h_2 h1 => rw [h1]; rfl
  case h_3 h0 h1 => rw [if_neg h0, if_neg h1]

/-! ## The obligation -/

/-- Settles O25: the coefficients by their formulas, each setting by how its operand is read. -/
theorem filterSettingsDeriveCoefficients : Obligations.FilterSettingsDeriveCoefficients := by
  refine ⟨by decide, fun s data => ⟨?coefficients, ?cutoff, ?resonance, ?mode, ?bypass⟩⟩
  case coefficients => rw [updateFilterCoef, feedback_eq, effectiveCutoff_eq_within]
  case cutoff => rw [exec, execSetCutoff, uOperand_zero_eq_min, coefMax_eq]; rfl
  case resonance => rw [exec, execSetResonance, uOperand_zero_eq_min, coefMax_eq]; rfl
  case mode => rw [exec, execSetFilterMode, filterModeOperand_eq_ite]; rfl
  case bypass => rw [exec, execSetFilterBypass, flagOperand_eq_decide_ne_zero]; rfl

end Sys2Proof.Machine
end

section
/-! PROOFS. The rebuilds of the waveshaper and gain tables (45_waveshaper_gain R256 to R262): the word each type of
curve gives at an index, read as a number, and the two operations that store the words. -/

namespace Sys2Proof.Machine

/-! ## The words of the tables (R256, R257, R261) -/

/-- A word clamped into the sample range is stored without loss. -/
theorem ofInt_clamp_toNat (v : Int) :
    ((BitVec.ofInt 12 (clamp 0 Config.sampleMax v)).toNat : Int) = within 0 4095 v :=
  ofInt_sample (clamp_bounds (by decide) v)

/-- SHAPER_GEN lists the identity and three curves (R257). -/
theorem listedCurve_eq_none {t : Nat} (ht : 4 ≤ t) (a x : Int) : listedCurve t a x = none := by
  unfold listedCurve
  split
  case h_4 => rfl
  all_goals omega

theorem shaperEntry_identity_toNat (p : Params) (a : Int) {x : Nat} (hx : x < 4096) :
    (shaperEntry p 0 a x).toNat = x := by
  rw [shaperEntry, if_pos rfl, BitVec.toNat_ofNat, Nat.mod_eq_of_lt hx]

theorem shaperEntry_of_listedCurve {p : Params} (hgen : p.shaperGen = .listed) {t : Nat} (ht : t ≠ 0)
    {a y : Int} {x : Nat} (hy : listedCurve t a x = some y) : shaperEntry p t a x = BitVec.ofInt 12 y := by
  rw [shaperEntry, if_neg ht, hgen, hy]

/-- The free curve stands where the configuration asks for it and where the list has none (log 8). -/
theorem shaperEntry_of_free {p : Params} {t : Nat} (h : (p.shaperGen = .implementation ∧ t ≠ 0) ∨ 4 ≤ t) (a : Int)
    (x : Nat) : shaperEntry p t a x = Config.shaperCurve t a.toNat x := by
  rcases h with ⟨hgen, ht⟩ | ht
  · rw [shaperEntry, if_neg ht, hgen]
  · rw [shaperEntry, if_neg (by omega), listedCurve_eq_none ht]
    split
    case h_1 hnone => cases hnone
    case h_2 => rfl

section
variable {p : Params} (hgen : p.shaperGen = .listed) (a : Int) (x : Nat)
include hgen

theorem shaperEntry_drive_toNat :
    ((shaperEntry p 1 a x).toNat : Int) = within 0 4095 (2048 + ((x : Int) - 2048) * (1024 + 7 * a) / 1024) := by
  rw [shaperEntry_of_listedCurve hgen one_ne_zero rfl, ofInt_clamp_toNat]; rfl

theorem shaperEntry_fold_toNat :
    ((shaperEntry p 2 a x).toNat : Int) =
      within 0 4095 (2048 + fold (((x : Int) - 2048) * (1024 + 3 * a) / 1024)) := by
  rw [shaperEntry_of_listedCurve hgen two_ne_zero rfl, ofInt_clamp_toNat]; rfl

theorem shaperEntry_rectify_toNat :
    ((shaperEntry p 3 a x).toNat : Int) =
      within 0 4095 (2048 + ((x : Int) - 2048) + (|(x : Int) - 2048| - ((x : Int) - 2048)) * a / 1024) := by
  rw [shaperEntry_of_listedCurve hgen three_ne_zero rfl, ofInt_clamp_toNat]; rfl

end

theorem gainEntry_toNat (p : Params) (amount : Int) (x : Nat) :
    ((gainEntry p amount x).toNat : Int) =
      within 0 4095 (2048 + ((x : Int) - 2048) * (1024 + p.gainSlope * amount) / 1024) := ofInt_clamp_toNat _

/-! ## The operations (R258, R262) -/

/-- A type that exists is stored, and the whole SHAPER table is rebuilt for it. -/
theorem exec_setShaper {sel : SelField} {s : State} (h : sel.toNat < s.params.nShaperType) (data : DataField) :
    exec (.setShaper sel data) s =
      .next ((s.withShape { s.shape with shaperType := sel.toNat, shaperAmount := min 1023 (uData data) }).withMem
        (s.mem.fill .shaper (shaperEntry s.params sel.toNat (min 1023 (uData data))))) := by
  have htype : shaperTypeOperand s.params sel = some sel.toNat := if_pos h
  rw [exec, execSetShaper, htype, uOperand_zero_eq_min]; rfl

theorem exec_setGain (data : DataField) (s : State) :
    exec (.setGain data) s =
      .next ((s.withShape { s.shape with gainAmount := min 1023 (uData data) }).withMem
        (s.mem.fill .gain (gainEntry s.params (min 1023 (uData data))))) := by
  rw [exec, execSetGain, uOperand_zero_eq_min]; rfl

/-- Settles O30: the memory is the rebuilt one, and each of its words is the word of the type's curve. -/
theorem shaperAndGainTablesAreRebuilt : Obligations.ShaperAndGainTablesAreRebuilt := by
  refine ⟨⟨rfl, rfl, rfl⟩, fun s sel data hsel => ?shaper, fun s data => ?gain⟩
  case shaper =>
    refine ⟨_, exec_setShaper hsel data, fun x hx => ?words, fun T a hT => Memory.read_fill_of_ne _ hT _ a,
      Memory.fill_seq _ _ _⟩
    have hamount : (min 1023 (uData data)).toNat = min 1023 data.toNat := by rw [uData]; omega
    rw [Memory.read_fill _ _ _ _ hx, if_pos rfl]
    refine ⟨fun ht => ?identity, fun hgen => ⟨fun ht => ?drive, fun ht => ?fold, fun ht => ?rectify⟩,
      fun hfree => ?free⟩
    case identity => rw [ht]; exact shaperEntry_identity_toNat _ _ hx
    case drive => rw [ht]; exact shaperEntry_drive_toNat hgen _ x
    case fold => rw [ht]; exact shaperEntry_fold_toNat hgen _ x
    case rectify => rw [ht]; exact shaperEntry_rectify_toNat hgen _ x
    case free => rw [← hamount]; exact shaperEntry_of_free hfree _ x
  case gain =>
    refine ⟨_, exec_setGain data s, fun x hx => ?word, fun T a hT => Memory.read_fill_of_ne _ hT _ a,
      Memory.fill_seq _ _ _⟩
    rw [Memory.read_fill _ _ _ _ hx, if_pos rfl]
    exact gainEntry_toNat _ _ x

end Sys2Proof.Machine
end

section
/-! PROOFS. Tempo, division and the two clocks' bookkeeping (46_clock R271 to R273, R280, R283 to R289): the shared
procedures in whole, the release of a note whose end is still scheduled (47_sequencer R315, 48_arpeggiator R357), and
the operations that use them. -/

namespace Sys2Proof.Machine

/-! ## Tempo and division (R271, R272, R273) -/

/-- DIV_TABLE has four entries, so a listing never falls back on the default. -/
theorem divTable_eq_getD (p : Params) {sel : Nat} (h : sel ≤ 3) (d : Nat) :
    divTable p sel = p.divTable.toList.getD sel d := by
  rw [List.getD_eq_getElem _ _ (by rw [Vector.length_toList]; omega), Vector.getElem_toList]
  match sel with
  | 0 | 1 | 2 | 3 => rfl

/-- A selector past the end of DIV_TABLE selects its last entry. -/
theorem divTable_eq_getD_last (p : Params) (sel : Nat) :
    divTable p sel = p.divTable.toList.getD sel p.divTable[3] := by
  by_cases h : sel ≤ 3
  · exact divTable_eq_getD p h _
  · rw [List.getD_eq_default _ _ (by rw [Vector.length_toList]; omega)]
    match sel, h with
    | _ + 4, _ => rfl

theorem setDiv_eq_dividedBy (sel : Nat) (s : State) : setDiv sel s = dividedBy (divTable s.params sel) s :=
  setDiv_eq sel s

theorem setTempo_eq (b : Nat) (s : State) :
    setTempo b s = s.withClock { s.clock with bpm := b, periodUs := 60000000 / (b * 96) } := rfl

theorem applySeqTempo_eq_sequenceTempo (s : State) : applySeqTempo s = sequenceTempo s := by
  rw [applySeqTempo, setDiv_eq_dividedBy, divTable_eq_getD_last]; rfl

/-- Starting is the tempo of the current sequence over a restarted transport (47_sequencer R301). -/
theorem startSeq_eq (s : State) :
    startSeq s = sequenceTempo ((s.withSeq { s.seq with running := true, step := 0, dir := 1, mag := 1 }).withClock
      { s.clock with pulse := 0 }) := applySeqTempo_eq_sequenceTempo _

/-! ## The loss of the external clock (R286) -/

/-- A noticed loss ends the following and forgets the phase and the estimates; without one nothing changes. -/
theorem noticeExtLoss_eq (s : State) :
    noticeExtLoss s =
      (s.withClock { s.clock with receivingClock := s.clock.receivingClock && !extTimedOut s }).withExt
        { s.ext with
          extSeen := s.ext.extSeen && !extTimedOut s
          extPulse := if extTimedOut s then 0 else s.ext.extPulse
          bpmBufCount := if extTimedOut s then 0 else s.ext.bpmBufCount
          bpmBufIdx := if extTimedOut s then 0 else s.ext.bpmBufIdx } := by
  rw [noticeExtLoss]
  cases extTimedOut s with
  | true => simp only [Bool.not_true, Bool.and_false]; rfl
  | false => simp only [Bool.not_false, Bool.and_true]; rfl

theorem extTimedOut_iff (s : State) :
    extTimedOut s = true ↔ s.clock.receivingClock = true ∧ 300000 ≤ (s.inputs.now - s.ext.lastExtTime).toNat := by
  rw [extTimedOut, Bool.and_eq_true, decide_eq_true_iff]; rfl

/-- Settles O40: the operands by their forms; a loss is noticed by CLOCK_POLL after the silence, and taken by
SET_MIDI_SYNC where it ends the obedience to a clock that is followed. -/
theorem tempoDivisionAndSyncAreSet : Obligations.TempoDivisionAndSyncAreSet := by
  refine ⟨rfl, fun s data => ⟨?bpm, ?division⟩, fun s data => ⟨?poll, ?midiSync⟩⟩
  case bpm => rw [exec, execSetBpm, countOperand, clampNat_eq_max_min (by decide), setTempo_eq]; rfl
  case division =>
    rw [exec, execSetDivision, countOperand_zero_eq_min, setDiv_eq_dividedBy,
      divTable_eq_getD _ (Nat.min_le_left _ _) 0]
    rfl
  case poll =>
    simp only [exec, execClockPoll, noticeExtLoss, ← extTimedOut_iff]; rfl
  case midiSync =>
    simp only [exec, execSetMidiSync, State.withClock_clock, Bool.and_eq_true, Bool.not_eq_true']
    rw [← apply_ite done]; rfl

/-! ## A message of the external clock (R283, R284, R285) -/

/-- The phase lock replaces the clock's record only, so the choice can be made inside it. -/
theorem extPhaseLock_eq (s : State) :
    extPhaseLock s = s.withClock { s.clock with
      pulse := if s.ext.extPulse = 0 then 0 else s.clock.pulse
      eighth := if s.ext.extPulse = 0 then (s.clock.eighth + 1) % 4294967296 else s.clock.eighth } := by
  rw [extPhaseLock]
  by_cases hfirst : s.ext.extPulse = 0
  · simp only [if_pos hfirst]; rfl
  · simp only [if_neg hfirst]; rfl

/-- The mean of the estimates that fill the buffer. -/
def meanBpm (x : ExtSync) : Nat := bufSum x.bpmBuf x.bpmBufCount / x.bpmBufCount

/-- The tempo after a message: the mean plus 1 from five estimates on, where the message gave one. -/
def bpmAfter (measured : Bool) (x : ExtSync) (bpm : Nat) : Nat :=
  if measured = true ∧ 5 ≤ x.bpmBufCount then max 20 (min 320 (meanBpm x + 1)) else bpm

/-- The clock after a message's estimate. -/
def publishedClock (measured : Bool) (x : ExtSync) (c : Clock) : Clock :=
  { c with
    bpm := bpmAfter measured x c.bpm
    periodUs :=
      if measured = true ∧ 5 ≤ x.bpmBufCount then 60000000 / (bpmAfter measured x c.bpm * 96) else c.periodUs }

theorem publishedClock_of_five {x : ExtSync} (h : 5 ≤ x.bpmBufCount) (c : Clock) :
    publishedClock true x c =
      { c with bpm := max 20 (min 320 (meanBpm x + 1)), periodUs := periodOf (max 20 (min 320 (meanBpm x + 1))) } := by
  have hpub : true = true ∧ 5 ≤ x.bpmBufCount := ⟨rfl, h⟩
  rw [publishedClock, bpmAfter, if_pos hpub, if_pos hpub]; rfl

theorem publishedClock_eq_self {measured : Bool} {x : ExtSync} (h : ¬(measured = true ∧ 5 ≤ x.bpmBufCount))
    (c : Clock) : publishedClock measured x c = c := by
  rw [publishedClock, bpmAfter, if_neg h, if_neg h]

/-- A message measures an interval if an earlier one was seen at another time. -/
def measures (x : ExtSync) (iv : Nat) : Bool := x.extSeen && decide (iv ≠ 0)

/-- The estimates after a message. -/
def estimated (x : ExtSync) (iv : Nat) : ExtSync :=
  { x with
    bpmBuf := if measures x iv then x.bpmBuf.set x.bpmBufIdx (min 65535 (60000000 / (iv * 24))) else x.bpmBuf
    bpmBufCount := if measures x iv then min 24 (x.bpmBufCount + 1) else x.bpmBufCount
    bpmBufIdx := if measures x iv then x.bpmBufIdx + 1 else x.bpmBufIdx }

theorem instBpm_eq_min (iv : Nat) : instBpm iv = min 65535 (60000000 / (iv * 24)) := by
  rw [instBpm, clampNat_eq_max_min (by decide), Nat.zero_max]; rfl

theorem pushEstimate_eq_estimated {x : ExtSync} {iv : Nat} (h : measures x iv = true) :
    pushEstimate x (instBpm iv) = estimated x iv := by
  simp only [estimated, if_pos h, instBpm_eq_min]; rfl

theorem estimated_of_not_measures {x : ExtSync} {iv : Nat} (h : measures x iv = false) : estimated x iv = x := by
  simp only [estimated, h]; rfl

/-- A new estimate publishes the tempo from five of them on. -/
theorem publishBpm_eq (s : State) : publishBpm s = s.withClock (publishedClock true s.ext s.clock) := by
  rw [publishBpm, Config.bpmMinSamples]
  by_cases hfive : 5 ≤ s.ext.bpmBufCount
  · rw [if_pos hfive, publishedClock_of_five hfive, ← clampNat_eq_max_min (by decide)]; rfl
  · rw [if_neg hfive, publishedClock_eq_self fun h => hfive h.2]; rfl

/-- EXT_CLOCK's estimate, tried where an earlier message was seen. -/
def estimateIfSeen (s : State) : State :=
  if s.ext.extSeen then bpmEstimate (s.since s.ext.lastExtTime) s else s

theorem estimateIfSeen_of_measures {s : State} (h : measures s.ext (s.since s.ext.lastExtTime) = true) :
    estimateIfSeen s = publishBpm (s.withExt (estimated s.ext (s.since s.ext.lastExtTime))) := by
  obtain ⟨hseen, hiv⟩ := Bool.and_eq_true_iff.1 h
  rw [estimateIfSeen, if_pos hseen, bpmEstimate, if_neg (of_decide_eq_true hiv), pushEstimate_eq_estimated h]

/-- After a first message there is nothing to measure, and an interval of 0 gives no tempo. -/
theorem estimateIfSeen_of_not_measures {s : State} (h : measures s.ext (s.since s.ext.lastExtTime) = false) :
    estimateIfSeen s = s := by
  by_cases hseen : s.ext.extSeen = true
  · have hiv : s.since s.ext.lastExtTime = 0 := by simpa [measures, hseen] using h
    rw [estimateIfSeen, if_pos hseen, bpmEstimate, if_pos hiv]
  · exact if_neg hseen

/-- What a message estimates and publishes, in whole. -/
theorem estimateIfSeen_eq (s : State) :
    let iv := s.since s.ext.lastExtTime
    estimateIfSeen s =
      (s.withClock (publishedClock (measures s.ext iv) (estimated s.ext iv) s.clock)).withExt (estimated s.ext iv) := by
  intro iv
  cases hm : measures s.ext iv with
  | true => rw [estimateIfSeen_of_measures hm, publishBpm_eq]; rfl
  | false =>
    rw [estimateIfSeen_of_not_measures hm, estimated_of_not_measures hm,
      publishedClock_eq_self fun h => Bool.false_ne_true h.1]
    rfl

/-- The clock after a message's swing and phase lock. -/
def lockedClock (s : State) : Clock :=
  { s.clock with
    receivingClock := true
    swingOffset := s.mem.seq[s.seq.cur].swing * (s.clock.div / 2) / s.params.swingMax
    pulse := if s.ext.extPulse = 0 then 0 else s.clock.pulse
    eighth := if s.ext.extPulse = 0 then (s.clock.eighth + 1) % 4294967296 else s.clock.eighth }

theorem extPhaseLock_recomputeSwing_eq (s : State) :
    extPhaseLock (recomputeSwing (s.withClock { s.clock with receivingClock := true })) =
      s.withClock (lockedClock s) := extPhaseLock_eq _

/-- The external-sync state with a message of the external eighth counted. -/
def counted (x : ExtSync) : ExtSync := { x with extPulse := (x.extPulse + 1) % 12 }

/-! Counting a message and estimating the tempo touch different fields. -/

theorem measures_counted (x : ExtSync) (iv : Nat) : measures (counted x) iv = measures x iv := rfl
theorem estimated_counted (x : ExtSync) (iv : Nat) : estimated (counted x) iv = counted (estimated x iv) := rfl
theorem publishedClock_counted (measured : Bool) (x : ExtSync) (c : Clock) :
    publishedClock measured (counted x) c = publishedClock measured x c := rfl

/-- A message of the external eighth is counted. -/
def countMessage (s : State) : State := s.withExt (counted s.ext)

/-- The time of a message is kept. -/
def stampMessage (s : State) : State := s.withExt { s.ext with lastExtTime := s.inputs.now, extSeen := true }

theorem extClockMessage_eq_stages (s : State) :
    extClockMessage s = stampMessage (estimateIfSeen (countMessage (s.withClock (lockedClock s)))) := by
  rw [← extPhaseLock_recomputeSwing_eq]; rfl

/-- The estimate of a counted message, in a state whose clock was locked. -/
theorem estimateIfSeen_countMessage_withClock (s : State) (c : Clock) :
    let iv := s.since s.ext.lastExtTime
    estimateIfSeen (countMessage (s.withClock c)) =
      (s.withClock (publishedClock (measures s.ext iv) (estimated s.ext iv) c)).withExt
        (counted (estimated s.ext iv)) := by
  intro iv
  have hiv : (countMessage (s.withClock c)).since (countMessage (s.withClock c)).ext.lastExtTime = iv := rfl
  have hext : (countMessage (s.withClock c)).ext = counted s.ext := rfl
  rw [estimateIfSeen_eq, hiv, hext, measures_counted, estimated_counted, publishedClock_counted]; rfl

/-- EXT_CLOCK in whole, once incoming clock is obeyed and a loss was noticed. -/
theorem extClockMessage_eq (s : State) :
    let iv := s.since s.ext.lastExtTime
    let x := estimated s.ext iv
    extClockMessage s = (s.withClock (publishedClock (measures s.ext iv) x (lockedClock s))).withExt
      { x with lastExtTime := s.inputs.now, extSeen := true, extPulse := (s.ext.extPulse + 1) % 12 } := by
  intro iv x
  rw [extClockMessage_eq_stages, estimateIfSeen_countMessage_withClock]; rfl

/-- Settles O41: the message is the one above, in the state after the loss test. -/
theorem extClockLocksPhaseAndTempo : Obligations.ExtClockLocksPhaseAndTempo := by
  refine fun s => ⟨fun hoff => ?disabled, fun hon => ?enabled⟩
  case disabled => rw [exec, execExtClock, if_neg (Bool.eq_false_iff.1 hoff)]; rfl
  case enabled => rw [exec, execExtClock, if_pos hon, noticeExtLoss_eq, extClockMessage_eq]; rfl

/-! ## Releases that are still scheduled (47_sequencer R315, 48_arpeggiator R357) -/

theorem ne_replicate_none_iff (x : Vector (Option Note) 4) :
    x ≠ Vector.replicate 4 none ↔ ∃ v : Fin 4, x[v] ≠ none := by
  rw [ne_eq, not_iff_comm, not_exists_not]
  constructor
  · exact fun h => Vector.ext fun i hi => (h ⟨i, hi⟩).trans (Vector.getElem_replicate hi).symm
  · rintro rfl v
    exact Vector.getElem_replicate v.isLt

theorem seqRelease_stepReleased (s : State) : StepReleased s (seqRelease s) := by
  refine ⟨_, envReleaseNow_released _, ?_⟩
  have hbox : (envReleaseNow (s.withSeq { s.seq with pendRel := none })).outbox = s.outbox := by simp
  simp only [seqRelease, hbox]
  rw [← ite_not]
  simp only [← ne_eq, ne_replicate_none_iff]

theorem arpRelease_arpReleased (s : State) : ArpReleased s (arpRelease s) := by
  refine ⟨_, envReleaseNow_released _, ?_⟩
  have hbox : (envReleaseNow (s.withArp { s.arp with pendRel := none })).outbox = s.outbox := by simp
  have harp : (envReleaseNow (s.withArp { s.arp with pendRel := none })).arp = { s.arp with pendRel := none } := by simp
  simp only [arpRelease, hbox, harp]
  cases s.arp.note with
  | none => rfl
  | some p => rfl

theorem seqReleasePending_releases (s : State) :
    if s.seq.pendRel = none then seqReleasePending s = s else StepReleased s (seqReleasePending s) := by
  rw [seqReleasePending]
  cases s.seq.pendRel with
  | none => rfl
  | some k => exact seqRelease_stepReleased s

theorem arpReleasePending_releases (s : State) :
    if s.arp.pendRel = none then arpReleasePending s = s else ArpReleased s (arpReleasePending s) := by
  rw [arpReleasePending]
  cases s.arp.pendRel with
  | none => rfl
  | some k => exact arpRelease_arpReleased s

/-- Settles O42: starting is the tempo of the current sequence over a reset transport, stopping a pending release. -/
theorem sequencerStartsAndStops : Obligations.SequencerStartsAndStops := by
  intro s started stopped
  refine ⟨?start, ?extStart, stopSeq s, seqReleasePending_releases stopped, rfl, ?extStop⟩
  case start => rw [exec, execSeqStart, startSeq_eq]; rfl
  case extStart =>
    rw [exec, execExtStart]
    by_cases hon : s.clock.extSyncEnable = true
    · rw [if_pos hon, if_pos hon]; exact congrArg done (startSeq_eq _)
    · rw [if_neg hon, if_neg hon]; rfl
  case extStop => rw [exec, execExtStop, ← apply_ite done]; rfl

/-- Settles O44: with the latch clear the two releases run one after the other, and the first leaves the arpeggiator
alone. -/
theorem freePlayReleasesHangingNotesOnce : Obligations.FreePlayReleasesHangingNotesOnce := by
  refine fun s => ⟨fun hset => if_pos hset, fun hclear => ?_⟩
  refine ⟨seqReleasePending (setFreeLatch true s), seqReleasePending_releases (setFreeLatch true s), ?_⟩
  have harp : (seqReleasePending (setFreeLatch true s)).arp = s.arp := by simp
  rw [freePlay, if_neg (Bool.eq_false_iff.1 hclear), ← harp]
  exact arpReleasePending_releases _

end Sys2Proof.Machine
end

section
/-! PROOFS. The sequencer's bank cueing, its dispatch and the edits of its records (47_sequencer R305, R306, R308, R330
to R333, 48_arpeggiator R350): one equation per operation on a sequence that exists, then the fields it writes. -/

namespace Sys2Proof.Machine

/-! ## Bank cueing (R305, R308) -/

/-- The five bank modes in the order 47_sequencer R305 numbers them. -/
theorem bankModeOperand_eq_getD (data : DataField) :
    bankModeOperand data =
      [BankMode.none, .loop2, .loop4, .loop8, .random].getD (min 4 data.toNat) .random := by
  unfold bankModeOperand
  split
  case h_5 h0 h1 h2 h3 =>
    rw [imp_false] at h0 h1 h2 h3
    rw [Nat.min_eq_left (by omega)]; rfl
  all_goals next hn => rw [hn]; rfl

theorem pairPartner_val : ∀ q : Fin 8, (pairPartner q).val = if q.val % 2 = 0 then q.val + 1 else q.val - 1 := by decide

theorem cycleOf4_val : ∀ q : Fin 8, (cycleOf4 q).val = 4 * (q.val / 4) + (q.val + 1) % 4 := by decide

/-- The draw steps over the current sequence. -/
theorem otherSeq_ne (q : Fin 8) {r : Int} (h : 0 ≤ r ∧ r ≤ 6) : otherSeq q r ≠ q := by
  intro heq
  have hval : (if (q.val : Int) ≤ r then r + 1 else r).toNat % 8 = q.val := congrArg Fin.val heq
  split at hval <;> omega

theorem cueNextSeq_of_none {s : State} (h : s.seq.bankMode = .none) : cueNextSeq s = s := by
  rw [cueNextSeq, h]

/-- A random cue takes its draw from the head of the words to come (log 5). -/
theorem cueNextSeq_of_random {s : State} (h : s.seq.bankMode = .random) :
    cueNextSeq s =
      (s.withSeq { s.seq with sel := otherSeq s.seq.cur (draw 0 6 s).1 }).withInputs
        { s.inputs with rnd := s.inputs.rnd.drop 1, drawCount := s.inputs.drawCount + 1 } := by
  have hdraw : cueNextSeq s =
      (draw 0 6 s).2.withSeq { (draw 0 6 s).2.seq with sel := otherSeq s.seq.cur (draw 0 6 s).1 } := by
    simp only [cueNextSeq, h]; rfl
  rw [hdraw, ← afterDraw_eq_drop]; rfl

/-- Settles O45, by the mode: the loops by the partner and the cycles, random by the draw that steps over the current
sequence. -/
theorem bankModeCuesTheNextSequence : Obligations.BankModeCuesTheNextSequence := by
  refine fun s data => ⟨?operand, ?cue⟩
  case operand => rw [exec, execSetBankMode, bankModeOperand_eq_getD]; rfl
  case cue =>
    cases hmode : s.seq.bankMode with
    | none => exact ⟨s.seq.sel, cueNextSeq_of_none hmode, fun _ => rfl, nofun, nofun, nofun, nofun⟩
    | loop2 =>
      exact ⟨pairPartner s.seq.cur, by simp only [cueNextSeq, hmode]; rfl, nofun, fun _ => pairPartner_val _, nofun,
        nofun, nofun⟩
    | loop4 =>
      exact ⟨cycleOf4 s.seq.cur, by simp only [cueNextSeq, hmode]; rfl, nofun, nofun, fun _ => cycleOf4_val _, nofun,
        nofun⟩
    | loop8 =>
      exact ⟨Fin.ofNat 8 (s.seq.cur.val + 1), by simp only [cueNextSeq, hmode]; rfl, nofun, nofun, nofun,
        fun _ => rfl, nofun⟩
    | random =>
      exact ⟨otherSeq s.seq.cur (draw 0 6 s).1, cueNextSeq_of_random hmode, nofun, nofun, nofun, nofun,
        fun _ => otherSeq_ne _ (draw_bounds (by decide) s)⟩

/-! ## The dispatch (R306, 48_arpeggiator R350) -/

theorem swingAtZero_eq (s : State) :
    swingAtZero s =
      if s.clock.pulse = 0 then
        s.withClock { s.clock with swingOffset := s.mem.seq[s.seq.cur].swing * (s.clock.div / 2) / s.params.swingMax }
      else s := rfl

/-- The swing is all of the clock that pulse 0 changes. -/
theorem swingAtZero_clock (s : State) :
    (swingAtZero s).clock.pulse = s.clock.pulse ∧ (swingAtZero s).clock.div = s.clock.div := by
  rw [swingAtZero]
  split
  · exact ⟨rfl, rfl⟩
  · exact ⟨rfl, rfl⟩

theorem stepPulse_iff (s : State) :
    stepPulse s = true ↔ s.clock.pulse = 0 ∨ s.clock.pulse = s.clock.div + s.clock.swingOffset := by
  rw [stepPulse, Bool.or_eq_true, decide_eq_true_iff, decide_eq_true_iff]

/-- A state whose clock is the one after the swing steps on the pulses of the measure that pulse 0 set. -/
theorem stepPulse_of_clock_eq {s m : State} (h : m.clock = (swingAtZero s).clock) :
    stepPulse m = true ↔
      s.clock.pulse = 0 ∨ s.clock.pulse = s.clock.div + (swingAtZero s).clock.swingOffset := by
  obtain ⟨hpulse, hdiv⟩ := swingAtZero_clock s
  rw [stepPulse_iff, h, hpulse, hdiv]

/-- The release that is due on this pulse. -/
def seqReleaseDue (s : State) : State := if s.seq.pendRel = some s.clock.pulse then seqRelease s else s

def arpReleaseDue (s : State) : State := if s.arp.pendRel = some s.clock.pulse then arpRelease s else s

theorem seqDispatch_eq (s : State) :
    seqDispatch s =
      if stepPulse (seqReleaseDue (swingAtZero s)) then seqNextStep (seqReleaseDue (swingAtZero s))
      else some (seqReleaseDue (swingAtZero s)) := rfl

theorem arpDispatch_eq (s : State) :
    arpDispatch s =
      if stepPulse (arpReleaseDue (swingAtZero s)) && decide ((arpReleaseDue (swingAtZero s)).arp.raw ≠ []) then
        arpStep (arpReleaseDue (swingAtZero s))
      else arpReleaseDue (swingAtZero s) := rfl

theorem seqReleaseDue_clock (s : State) : (seqReleaseDue s).clock = s.clock := by
  unfold seqReleaseDue; split <;> simp

/-- An arpeggio note's release leaves the clock and the keys held. -/
theorem arpReleaseDue_frame (s : State) :
    (arpReleaseDue s).clock = s.clock ∧ (arpReleaseDue s).arp.raw = s.arp.raw := by
  unfold arpReleaseDue
  split
  · exact ⟨by simp, by simp only [arpRelease]; split <;> simp⟩
  · exact ⟨rfl, rfl⟩

theorem seqReleaseDue_releases (s : State) :
    if s.seq.pendRel = some s.clock.pulse then StepReleased s (seqReleaseDue s) else seqReleaseDue s = s := by
  unfold seqReleaseDue
  split
  · exact seqRelease_stepReleased s
  · rfl

theorem arpReleaseDue_releases (s : State) :
    if s.arp.pendRel = some s.clock.pulse then ArpReleased s (arpReleaseDue s) else arpReleaseDue s = s := by
  unfold arpReleaseDue
  split
  · exact arpRelease_arpReleased s
  · rfl

/-- Settles O46: the swing moves neither the pulse nor a scheduled release, and a release leaves the clock and the keys
held, so the step's conditions can be read off the state before both. -/
theorem dispatchReleasesBeforeStepping : Obligations.DispatchReleasesBeforeStepping := by
  intro s w
  have hw : swingAtZero s = w := swingAtZero_eq s
  obtain ⟨hpulse, -⟩ := swingAtZero_clock s
  have hseq : (swingAtZero s).seq = s.seq := by simp
  have harp : (swingAtZero s).arp = s.arp := by simp
  refine ⟨⟨seqReleaseDue w, ?seqRelease, ?seqStep⟩, ⟨arpReleaseDue w, ?arpRelease, ?arpStep⟩⟩
  case seqRelease =>
    have hrel := seqReleaseDue_releases (swingAtZero s)
    rwa [hpulse, hseq, hw] at hrel
  case seqStep =>
    have hstep := stepPulse_of_clock_eq (seqReleaseDue_clock (swingAtZero s))
    rw [seqDispatch_eq]
    simp only [hstep, ← hw]
  case arpRelease =>
    have hrel := arpReleaseDue_releases (swingAtZero s)
    rwa [hpulse, harp, hw] at hrel
  case arpStep =>
    obtain ⟨hclock, hraw⟩ := arpReleaseDue_frame (swingAtZero s)
    have hstep := stepPulse_of_clock_eq hclock
    rw [arpDispatch_eq]
    simp only [Bool.and_eq_true, decide_eq_true_iff, hstep, hraw, harp, ← hw]

/-! ## SEQ_WRITE (R330) -/

theorem subOperand_of_toNat_eq {n : Nat} {sub : BitVec 4} {u : Fin n} (h : sub.toNat = u.val) :
    subOperand n sub = some u := by
  have hlt : sub.toNat < n := h ▸ u.isLt
  rw [subOperand, dif_pos hlt]
  exact congrArg some (Fin.ext h)

/-- SEQ_WRITE of a field that exists, of a sequence that exists. -/
theorem exec_seqWrite {s : State} {q : Fin 8} {sel : SelField} {field sub step : BitVec 4} {data : DataField}
    {S : Sequence} (h : sel.toNat = q.val)
    (hS : writeField s.params s.mem.seq[q] field sub step.toFin data = some S) :
    exec (.seqWrite sel field sub step data) s = .next (s.withMem { s.mem with seq := s.mem.seq.set q S }) := by
  rw [exec, execSeqWrite, selOperand_of_toNat_eq h]
  simp only [stepOperand, hS]; rfl

/-- Settles O47, field by field: each writes its one component of the record; what does not exist is not well-formed. -/
theorem seqWriteEditsOneField : Obligations.SeqWriteEditsOneField := by
  intro s q sel field sub step data hsel S t answer
  have missing (h : seqFieldExists field sub = false) : exec (.seqWrite sel field sub step data) s = .next s :=
    exec_of_not_wellFormed (Bool.and_eq_false_iff.2 (.inr h))
  refine ⟨fun u hf hu => ?note, fun hf => ?tie, fun hf => ?mute, fun hf => ?vel, fun u hf hu => ?ccNum,
    fun u hf hu => ?ccVal, fun hf hu => missing (seqFieldExists_eq_false.2 (.inr ⟨hu, hf⟩)),
    fun hf => missing (seqFieldExists_eq_false.2 (.inl hf))⟩
  all_goals refine exec_seqWrite hsel ?_
  case note => simp only [writeField, hf, subOperand_of_toNat_eq hu]; rfl
  case tie => simp only [writeField, hf, flagOperand_eq_decide_ne_zero]; rfl
  case mute => simp only [writeField, hf, flagOperand_eq_decide_ne_zero]; rfl
  case vel => simp only [writeField, hf, velOperand_eq_min]; rfl
  case ccNum => simp only [writeField, hf, subOperand_of_toNat_eq hu, countOperand_zero_eq_min]; rfl
  case ccVal => simp only [writeField, hf, subOperand_of_toNat_eq hu, countOperand_zero_eq_min]; rfl

/-! ## SEQ_SET_PARAM, SEQ_COPY, SEQ_CLEAR (R331, R332, R333) -/

/-- The transport after sequence `q` became one of `len` steps: the step of the current sequence is brought inside. -/
abbrev reducedStep (q : Fin 8) (len : Nat) (s : State) : Transport :=
  if q = s.seq.cur then { s.seq with step := s.seq.step % len } else s.seq

/-- The step is reduced modulo the length just stored. -/
theorem reduceStep_setSeq (q : Fin 8) (S : Sequence) (s : State) :
    reduceStep q (s.withMem (s.mem.setSeq q S)) =
      (s.withMem (s.mem.setSeq q S)).withSeq (reducedStep q S.patternLength s) := by
  have hq : (s.mem.seq.set q S)[q] = S := Vector.getElem_set_self _
  rw [reduceStep, apply_ite (State.withSeq _)]
  simp only [State.withMem_mem, State.withMem_seq, Memory.setSeq_seq, hq]
  rfl

theorem addrOperand_of_toNat_eq {n : Nat} {addr : AddrField} {e : Fin n} (h : addr.toNat = e.val) :
    addrOperand n addr = some e := by
  have hlt : addr.toNat < n := h ▸ e.isLt
  rw [addrOperand, dif_pos hlt]
  exact congrArg some (Fin.ext h)

section
variable {q : Fin 8} {sel : SelField} (h : sel.toNat = q.val) {addr : AddrField} {data : DataField} {s : State}
include h

/-- A parameter other than the pattern length leaves the step alone. -/
theorem exec_seqSetParam_of_ne {S : Sequence} (hne : addr.toNat ≠ 2)
    (hS : writeParam s.params s.mem.seq[q] addr.toNat data = some S) :
    exec (.seqSetParam sel addr data) s = .next (s.withMem (s.mem.setSeq q S)) := by
  rw [exec, execSeqSetParam, selOperand_of_toNat_eq h]
  simp only [hS, if_neg hne]; rfl

theorem exec_seqSetParam_length (haddr : addr.toNat = 2) :
    exec (.seqSetParam sel addr data) s =
      (let len := max 1 (min 16 data.toNat)
       .next ((s.withMem (s.mem.setSeq q { s.mem.seq[q] with patternLength := len })).withSeq
         (reducedStep q len s))) := by
  rw [exec, execSeqSetParam, selOperand_of_toNat_eq h]
  simp only [haddr, writeParam, if_true, reduceStep_setSeq, countOperand, clampNat_eq_max_min (by decide : 1 ≤ 16)]
  rfl

theorem exec_seqCopy {b : Fin 8} (haddr : addr.toNat = b.val) :
    exec (.seqCopy sel addr) s =
      (let t := s.withSeq { s.seq with src := q, dst := b }
       .next ((t.withMem (t.mem.setSeq b s.mem.seq[q])).withSeq (reducedStep b s.mem.seq[q].patternLength t))) := by
  rw [exec, execSeqCopy, selOperand_of_toNat_eq h, addrOperand_of_toNat_eq haddr]
  exact congrArg done (reduceStep_setSeq b _ _)

theorem exec_seqClear :
    exec (.seqClear sel) s =
      .next ((s.withMem (s.mem.setSeq q Sequence.cleared)).withSeq (reducedStep q 16 s)) := by
  rw [exec, execSeqClear, selOperand_of_toNat_eq h]
  exact congrArg done (reduceStep_setSeq q _ _)

end

/-- Settles O48: each parameter by its operand, the three edits that change a length by the step they reduce. -/
theorem sequenceEditsKeepTheStepInside : Obligations.SequenceEditsKeepTheStepInside := by
  intro s q b sel addr data hsel S put reduced param
  refine ⟨fun ha => ?duration, fun ha => ?division, fun ha => exec_seqSetParam_length hsel ha, fun ha => ?transpose,
    fun ha => ?swing, fun ha => ?bpm, fun ha => ?missing, fun ha => exec_seqCopy hsel ha,
    Sequence.cleared, exec_seqClear hsel, ?notes, ?steps, ?controllers, rfl, rfl, rfl, rfl, rfl, rfl⟩
  case duration | division | swing =>
    refine exec_seqSetParam_of_ne hsel (by omega) ?_
    simp only [ha, writeParam, countOperand_zero_eq_min]; rfl
  case transpose =>
    refine exec_seqSetParam_of_ne hsel (by omega) ?_
    simp only [ha, writeParam]; rfl
  case bpm =>
    refine exec_seqSetParam_of_ne hsel (by omega) ?_
    simp only [ha, writeParam, countOperand, clampNat_eq_max_min (by decide : Config.bpmMin ≤ Config.bpmMax)]; rfl
  case missing => exact exec_of_not_wellFormed (Bool.and_eq_false_iff.2 (.inr (addrBelow_eq_false.2 ha)))
  case notes =>
    intro v t
    simp [Sequence.cleared]
  case steps =>
    intro t
    simp [Sequence.cleared]
  case controllers =>
    intro c
    simp [Sequence.cleared]

end Sys2Proof.Machine
end

section
/-! PROOFS. One step of the sequencer (47_sequencer R307, R309 to R314, R317): the increment of each play mode, what a
muted, a tied and a played step do, and the step that follows. -/

namespace Sys2Proof.Machine

/-! ## The release of a step (R311, R312, R317) -/

theorem mappedDuration_eq (p : Params) (dur div : Nat) :
    mappedDuration p dur div = if p.seqDurMap = .identity then dur else Config.durationMap dur div := by
  rw [mappedDuration]
  cases p.seqDurMap with
  | identity => rfl
  | implementation => rfl

theorem currentSeq_congr {s m : State} (hmem : m.mem = s.mem) (hcur : m.seq.cur = s.seq.cur) :
    currentSeq m = currentSeq s := by
  simp only [currentSeq, hmem, hcur]

/-- The pulse on which a step played now is released: its duration, kept inside the measure, from here. -/
def releasePulse (s : State) : Nat :=
  let dur := if s.params.seqDurMap = .identity then (currentSeq s).noteDuration
    else Config.durationMap (currentSeq s).noteDuration s.clock.div
  (s.clock.pulse + max 1 (min (2 * s.clock.div - 1) dur)) % (2 * s.clock.div)

theorem scheduleSeqRelease_eq {s : State} (hdiv : 0 < s.clock.div) :
    scheduleSeqRelease s = s.withSeq { s.seq with pendRel := some (releasePulse s) } := by
  have hmeasure : 1 ≤ measure s - 1 := by unfold measure; omega
  rw [scheduleSeqRelease, seqDur, clampNat_eq_max_min hmeasure, mappedDuration_eq]; rfl

/-- The release is scheduled by the clock, the configuration and the current sequence alone. -/
theorem releasePulse_congr {s m : State} (hclock : m.clock = s.clock) (hparams : m.params = s.params)
    (hseq : currentSeq m = currentSeq s) : releasePulse m = releasePulse s := by
  simp only [releasePulse, hclock, hparams, hseq]

theorem clock_div_pos {s : State} (h : Inv s) : 0 < s.clock.div := by
  have hpulse : s.clock.pulse < 2 * s.clock.div := h.clock.1
  omega

/-! ## The increment, by play mode (R310) -/

theorem drawMagnitude_eq (len : Nat) (s : State) :
    drawMagnitude len s =
      (s.withInputs { s.inputs with rnd := s.inputs.rnd.drop 1, drawCount := s.inputs.drawCount + 1 }).withSeq
        { s.seq with mag := (draw 1 (max 1 ((len : Int) - 1)) s).1 } := by
  rw [← afterDraw_eq_drop]; rfl

section
variable {len t : Nat} {s : State}

theorem stepIncrement_forward (h : s.seq.playMode = .forward) :
    (stepIncrement len t s).1 = 1 ∧ (stepIncrement len t s).2 = s := by
  rw [stepIncrement, h]; exact ⟨rfl, rfl⟩

theorem stepIncrement_reverse (h : s.seq.playMode = .reverse) :
    (stepIncrement len t s).1 = -1 ∧ (stepIncrement len t s).2 = s := by
  rw [stepIncrement, h]; exact ⟨rfl, rfl⟩

/-- The pendulum turns at both ends of the pattern. -/
theorem stepIncrement_pendulum (hlen : 1 ≤ len) (h : s.seq.playMode = .pendulum) :
    (stepIncrement len t s).1 = (if t = 0 then 1 else if len - 1 ≤ t then -1 else s.seq.dir) ∧
    (stepIncrement len t s).2 = s.withSeq { s.seq with dir := (stepIncrement len t s).1 } := by
  have hend : (len : Int) - 1 ≤ t ↔ len - 1 ≤ t := by omega
  simp only [stepIncrement, h, hend, and_self]

/-- Within a pass of the pattern the random interval is kept. -/
theorem stepIncrement_interval (h : s.seq.playMode = .randomInterval) (ht : t ≠ 0) :
    (stepIncrement len t s).1 = s.seq.mag ∧ (stepIncrement len t s).2 = s := by
  simp only [stepIncrement, h, if_neg ht, and_self]

/-- Where a magnitude is drawn it is the increment: on every step, or at the start of a pass. -/
theorem stepIncrement_of_drawn (h : (s.seq.playMode = .randomInterval ∧ t = 0) ∨ s.seq.playMode = .random) :
    stepIncrement len t s = ((drawMagnitude len s).seq.mag, drawMagnitude len s) := by
  rcases h with ⟨hmode, ht⟩ | hmode
  · simp only [stepIncrement, hmode, if_pos ht]
  · simp only [stepIncrement, hmode]

theorem stepIncrement_drawn (h : (s.seq.playMode = .randomInterval ∧ t = 0) ∨ s.seq.playMode = .random) :
    1 ≤ (stepIncrement len t s).1 ∧ (stepIncrement len t s).1 ≤ max 1 ((len : Int) - 1) ∧
    (stepIncrement len t s).2 =
      (s.withInputs { s.inputs with rnd := s.inputs.rnd.drop 1, drawCount := s.inputs.drawCount + 1 }).withSeq
        { s.seq with mag := (stepIncrement len t s).1 } := by
  obtain ⟨hlo, hhi⟩ := draw_bounds (lo := 1) (hi := max 1 ((len : Int) - 1)) (le_max_left _ _) s
  rw [stepIncrement_of_drawn h, drawMagnitude_eq]
  exact ⟨hlo, hhi, rfl⟩

theorem stepIncrement_drunk (h : s.seq.playMode = .drunk) :
    ((stepIncrement len t s).1 = 1 ∨ (stepIncrement len t s).1 = -1) ∧
    (stepIncrement len t s).2 =
      (s.withInputs { s.inputs with rnd := s.inputs.rnd.drop 1, drawCount := s.inputs.drawCount + 1 }).withSeq
        { s.seq with dir := (stepIncrement len t s).1 } := by
  have hstep : stepIncrement len t s =
      (if (draw 0 1 s).1 = 0 then -1 else 1,
        (s.withInputs s.inputs.afterDraw).withSeq { s.seq with dir := if (draw 0 1 s).1 = 0 then -1 else 1 }) := by
    rw [stepIncrement, h]; rfl
  rw [hstep, afterDraw_eq_drop]
  refine ⟨?_, rfl⟩
  split
  · exact .inr rfl
  · exact .inl rfl

end

/-! ## The step played (R309, R311, R312, R313) -/

theorem playStep_eq {s : State} (hdiv : 0 < s.clock.div) (a nxt : Fin 16) :
    playStep a nxt s =
      if (currentSeq s).mute[a] then
        s.withSeq { s.seq with pendRel := s.seq.pendRel.map fun p => (p + 1) % (2 * s.clock.div) }
      else if (currentSeq s).tie[a] then
        (if (currentSeq s).tie[nxt] then s else s.withSeq { s.seq with pendRel := some (releasePulse s) })
      else stepPlay a nxt s := by
  rw [playStep, stepTied, scheduleSeqRelease_eq hdiv]; rfl

/-- SeqNextStep runs through where both step numbers name steps of the pattern. -/
theorem seqNextStep_of_stepIndex {s0 s : State} (hs : switchIfCued s0 = s) {a nxt : Fin 16}
    (ha : stepIndex (currentSeq s).patternLength s.seq.step = some a)
    (hnxt : stepIndex (currentSeq s).patternLength
      (a.val + (stepIncrement (currentSeq s).patternLength a.val s).1) = some nxt) :
    seqNextStep s0 =
      (let played := playStep a nxt (stepIncrement (currentSeq s).patternLength a.val s).2
       some (played.withSeq { played.seq with step := nxt.val })) := by
  rw [seqNextStep, hs]
  simp only [ha, hnxt, Option.bind_eq_bind, Option.bind_some]; rfl

/-- The step a legal state stands on is a step of its pattern. -/
theorem stepIndex_current {s : State} (h : Inv s) :
    ∃ a, stepIndex (currentSeq s).patternLength s.seq.step = some a ∧ a.val = s.seq.step := by
  have hlt : s.seq.step < (currentSeq s).patternLength := h.seq.1
  have hlen : 1 ≤ (currentSeq s).patternLength ∧ (currentSeq s).patternLength ≤ 16 := patternLength_bounds h s.seq.cur
  obtain ⟨a, ha, -, hval⟩ := stepIndex_of_bounds hlen s.seq.step
  rw [Int.emod_eq_of_lt (Int.natCast_nonneg _) (Int.ofNat_lt.2 hlt)] at hval
  exact ⟨a, ha, Int.ofNat.inj hval⟩

/-- Settles O49: the increment by its mode, the step played by its kind; both step numbers exist because the state after
the switch is legal. -/
theorem sequencerStepAdvancesThePattern : Obligations.SequencerStepAdvancesThePattern := by
  intro s0 hs0 s S len t dur drawn due
  have hs : switchIfCued s0 = s := by rw [switchIfCued, applySeqTempo_eq_sequenceTempo]
  have hinv : Inv s := hs ▸ hs0.switchIfCued
  have hlen : 1 ≤ len ∧ len ≤ 16 := patternLength_bounds hinv s.seq.cur
  obtain ⟨a, ha, hat⟩ := stepIndex_current hinv
  obtain ⟨nxt, hnxt, -, hnval⟩ := stepIndex_of_bounds hlen (a.val + (stepIncrement len a.val s).1)
  have hnext := seqNextStep_of_stepIndex hs ha hnxt
  rw [hat] at hnval hnext
  have hm := stepIncrement_frame len t s
  have hclock : (stepIncrement len t s).2.clock = s.clock := congrArg (·.clock) hm
  have hparams : (stepIncrement len t s).2.params = s.params := congrArg (·.params) hm
  have hseq : currentSeq (stepIncrement len t s).2 = currentSeq s :=
    currentSeq_congr (congrArg (·.mem) hm) (stepIncrement_cur len t s)
  refine ⟨(stepIncrement len t s).1, (stepIncrement len t s).2, a, nxt, playStep a nxt (stepIncrement len t s).2, hat,
    hnval, stepIncrement_forward, stepIncrement_reverse, stepIncrement_pendulum hlen.1, stepIncrement_interval,
    stepIncrement_drawn, stepIncrement_drunk, ?played, hnext⟩
  case played =>
    rw [playStep_eq (hclock ▸ clock_div_pos hinv), releasePulse_congr hclock hparams hseq, hseq, hclock]; rfl

end Sys2Proof.Machine
end

section
/-! PROOFS. What a step that is neither muted nor tied does (47_sequencer R311): the voices are given their notes in
turn, then the release is scheduled, then the envelope is triggered. -/

namespace Sys2Proof.Machine

/-! ## A note or the mute mark for one voice (R311, 48_arpeggiator R355, 49_voice_allocator R374, R387) -/

theorem noteOrMute_some (v : Fin 4) (n : Note) (s : State) : noteOrMute v (some n) s = setNote v (some n) s := rfl

theorem noteOrMute_none (v : Fin 4) (s : State) : noteOrMute v none s = markMute v (setNote v none s) := rfl

/-- Only oscillators and voices change. -/
theorem noteOrMute_eq_with (v : Fin 4) (x : Option Note) (s : State) :
    noteOrMute v x s = (s.withOsc (noteOrMute v x s).osc).withVoices (noteOrMute v x s).voices := by
  cases x with
  | none => rfl
  | some n => rfl

@[simp] theorem noteOrMute_frame (v : Fin 4) (x : Option Note) (s : State) :
    (noteOrMute v x s).env = s.env ∧ (noteOrMute v x s).seq = s.seq ∧ (noteOrMute v x s).clock = s.clock ∧
    (noteOrMute v x s).mem = s.mem ∧ (noteOrMute v x s).outbox = s.outbox ∧ (noteOrMute v x s).params = s.params := by
  rw [noteOrMute_eq_with]
  exact ⟨rfl, rfl, rfl, rfl, rfl, rfl⟩

/-- Neither a note nor a mark reads the outbox. -/
theorem noteOrMute_withOutbox (v : Fin 4) (x : Option Note) (o : Outbox) (s : State) :
    noteOrMute v x (s.withOutbox o) = (noteOrMute v x s).withOutbox o := by
  cases x with
  | none => rfl
  | some n => rfl

/-! ## What a voice plays, its glide left out -/

/-- A voice's record without the timing of its glide, which every derivation of the increments may end. -/
def Voice.still (x : Voice) : Voice := { x with portaT0 := 0, gliding := false }

/-- A voice given a note sounds it, unmarked; one given none is marked. -/
def Voice.given (x : Option Note) (y : Voice) : Voice :=
  { y with note := x, sounding := x.isSome || y.sounding, muteOnTrig := x.isNone }

theorem given_still (x : Option Note) (y : Voice) : y.still.given x = (y.given x).still := rfl

theorem deriveIncrements_still (s : State) (u : Fin 4) :
    (deriveIncrements s).voices[u].still = s.voices[u].still := by
  rw [deriveIncrements_voices]; rfl

theorem setVoice_voices (s : State) (u v : Fin 4) (y : Voice) :
    (s.setVoice v y).voices[u] = if u = v then y else s.voices[u] := by
  simp only [State.setVoice, State.withVoices_voices, Fin.getElem_fin, Vector.getElem_set, Fin.ext_iff, eq_comm]

/-- Giving voice v a note or none, seen at voice u. -/
theorem noteOrMute_still (v : Fin 4) (x : Option Note) (u : Fin 4) (s : State) :
    (noteOrMute v x s).voices[u].still = if u = v then s.voices[u].still.given x else s.voices[u].still := by
  cases x with
  | none =>
    rw [noteOrMute_none, markMute, setVoice_voices]
    split
    · next huv =>
      subst huv
      change { (setNote u none s).voices[u].still with muteOnTrig := true } = _
      rw [setNote, deriveIncrements_still, setVoice_voices, if_pos rfl]; rfl
    · next huv => rw [setNote, deriveIncrements_still, setVoice_voices, if_neg huv]
  | some n =>
    rw [noteOrMute_some, setNote, deriveIncrements_still, setVoice_voices]
    split
    · next huv => subst huv; rfl
    · rfl

/-- A loop over the voices whose turn for voice v changes what is seen of voice v only. -/
theorem forVoices_apply {α : Type} (g : State → Fin 4 → α) (y : Fin 4 → α → α) {f : Fin 4 → State → State}
    (hf : ∀ v u s, g (f v s) u = if u = v then y v (g s u) else g s u) (s : State) (u : Fin 4) :
    g (forVoices f s) u = y u (g s u) := by
  simp only [forVoices, hf]
  match u with
  | 0 | 1 | 2 | 3 => rfl

/-! ## The voices' notes (R311) -/

/-- Every voice given its note or none, in turn. -/
abbrev notesGiven (x : Fin 4 → Option Note) (s : State) : State := forVoices (fun v => noteOrMute v (x v)) s

theorem notesGiven_still (x : Fin 4 → Option Note) (s : State) (u : Fin 4) :
    (notesGiven x s).voices[u].still = s.voices[u].still.given (x u) :=
  forVoices_apply (fun s u => s.voices[u].still) (fun v => Voice.given (x v))
    (fun v u s => noteOrMute_still v (x v) u s) s u

theorem playVoice_eq (S : Sequence) (t : Fin 16) (v : Fin 4) (s : State) :
    playVoice S t v s =
      (noteOrMute v (stepNote s.params S t v) s).withOutbox
        { s.outbox with seqNotes := s.outbox.seqNotes.set v (stepNote s.params S t v) } := by
  rw [playVoice]
  cases stepNote s.params S t v with
  | none => rw [noteOrMute_none]; simp
  | some n => rw [noteOrMute_some]; simp

/-- Writing the four entries in turn leaves nothing of what stood there. -/
theorem set_all_four {α : Type} (x : Vector α 4) (a b c d : α) :
    (((x.set (0 : Fin 4) a).set (1 : Fin 4) b).set (2 : Fin 4) c).set (3 : Fin 4) d = #v[a, b, c, d] := by
  refine Vector.ext fun i hi => ?_
  simp only [Vector.getElem_set]
  match i, hi with
  | 0, _ | 1, _ | 2, _ | 3, _ => rfl

/-- The batch of a step's notes. -/
abbrev stepBatch (p : Params) (S : Sequence) (t : Fin 16) : Vector (Option Note) 4 :=
  #v[stepNote p S t 0, stepNote p S t 1, stepNote p S t 2, stepNote p S t 3]

theorem stepBatch_getElem (p : Params) (S : Sequence) (t : Fin 16) (v : Fin 4) :
    (stepBatch p S t)[v] = stepNote p S t v := by
  match v with
  | 0 | 1 | 2 | 3 => rfl

theorem stepBatch_ne_iff (p : Params) (S : Sequence) (t : Fin 16) :
    stepBatch p S t ≠ Vector.replicate 4 none ↔ ∃ v, stepNote p S t v ≠ none := by
  simp only [ne_replicate_none_iff, stepBatch_getElem]

theorem forVoices_playVoice_eq (S : Sequence) (t : Fin 16) (s : State) :
    forVoices (playVoice S t) s =
      (notesGiven (stepNote s.params S t) s).withOutbox { s.outbox with seqNotes := stepBatch s.params S t } := by
  simp only [forVoices, playVoice_eq, noteOrMute_withOutbox, noteOrMute_frame, State.withOutbox_params,
    State.withOutbox_outbox, State.withOutbox_withOutbox, set_all_four]

/-! ## StepPlay (R311) -/

/-- `s` after a step gave its notes and scheduled its release. -/
def stepAssigned (a nxt : Fin 16) (s : State) : State :=
  ((notesGiven (stepNote s.params (currentSeq s) a) s).withOutbox
    { s.outbox with seqNotes := stepBatch s.params (currentSeq s) a }).withSeq
    { s.seq with pendRel := if (currentSeq s).tie[nxt] then none else some (releasePulse s) }

theorem stepAssigned_env (a nxt : Fin 16) (s : State) : (stepAssigned a nxt s).env = s.env := by
  simp [stepAssigned, forVoices]

/-- The triggered step puts its batch in the outbox. -/
def stepSounded (vel : Int) (s : State) : State :=
  (envTriggerWith vel s).withOutbox { s.outbox with seqOn := some { notes := s.outbox.seqNotes, vel := vel } }

/-- The voices' notes, then the release: scheduled here unless the next step is tied to this one. -/
theorem forVoices_playVoice_scheduled {s : State} (hdiv : 0 < s.clock.div) (a nxt : Fin 16) :
    let g := forVoices (playVoice (currentSeq s) a) s
    (if (currentSeq s).tie[nxt] then g.withSeq { g.seq with pendRel := none } else scheduleSeqRelease g) =
      stepAssigned a nxt s := by
  intro g
  have hseq : g.seq = s.seq := forVoices_playVoice_seq (currentSeq s) a s
  have hclock : g.clock = s.clock := by simp [g, forVoices]
  have hparams : g.params = s.params := by simp [g, forVoices]
  have hmem : g.mem = s.mem := by simp [g, forVoices]
  have hpulse : releasePulse g = releasePulse s :=
    releasePulse_congr hclock hparams (currentSeq_congr hmem (congrArg (·.cur) hseq))
  rw [scheduleSeqRelease_eq (hclock ▸ hdiv), hpulse, hseq, stepAssigned, ← forVoices_playVoice_eq]
  split
  · rfl
  · rfl

theorem stepSounded_seq (vel : Int) (s : State) : (stepSounded vel s).seq = s.seq := by simp [stepSounded]

/-- A step in whole: silent, or sounding at its velocity. -/
theorem stepPlay_eq {s : State} (hdiv : 0 < s.clock.div) (a nxt : Fin 16) :
    stepPlay a nxt s =
      if stepBatch s.params (currentSeq s) a = Vector.replicate 4 none then stepAssigned a nxt s
      else stepSounded (currentSeq s).vel[a] (stepAssigned a nxt s) := by
  have hassigned := forVoices_playVoice_scheduled hdiv a nxt
  have hbatch : (stepAssigned a nxt s).outbox.seqNotes = stepBatch s.params (currentSeq s) a := rfl
  dsimp only at hassigned
  simp only [stepPlay, hassigned, envTriggerWith_frame, hbatch]
  rfl

/-! ## The trigger (42_envelope R185 to R187) -/

theorem enterAttack_still (s : State) (u : Fin 4) :
    (enterAttack s).voices[u].still = (applyMute s.voices[u]).still := by
  rw [enterAttack, deriveIncrements_still]
  simp [State.mapVoices]

theorem enterAttack_env (s : State) :
    (enterAttack s).env.stage = .attack ∧ (enterAttack s).env.pendVel = s.env.pendVel := by
  simp [enterAttack]

theorem envTriggerWith_still (vel : Int) (s : State) (u : Fin 4) :
    (envTriggerWith vel s).voices[u].still = s.voices[u].still ∨
    (envTriggerWith vel s).voices[u].still = (applyMute s.voices[u]).still := by
  rw [envTriggerWith, envTrigStep]
  split
  · exact .inl rfl
  · exact .inr (enterAttack_still _ u)

/-- A trigger leaves the velocity stored, and the envelope in Attack or waiting for the end of the fade. -/
theorem envTriggerWith_env (vel : Int) (s : State) :
    (envTriggerWith vel s).env.pendVel = vel ∧
    ((envTriggerWith vel s).env.stage = .attack ∨ (envTriggerWith vel s).env.trigPending = true) := by
  rw [envTriggerWith, envTrigStep]
  split
  · exact ⟨rfl, .inr rfl⟩
  · obtain ⟨hstage, hvel⟩ := enterAttack_env
      ((queueVelocity (s.withEnv { s.env with pendVel := vel })).withEnv
        { s.env with pendVel := vel, trigPending := true })
    exact ⟨hvel, .inl hstage⟩

/-! ## The fields of the voices -/

/-- What a voice plays is decided by its fields other than the glide's. -/
theorem still_fields {x y : Voice} (h : x.still = y.still) :
    x.note = y.note ∧ x.sounding = y.sounding ∧ x.muteOnTrig = y.muteOnTrig ∧ x.key = y.key :=
  ⟨(congrArg Voice.note h :), (congrArg Voice.sounding h :), (congrArg Voice.muteOnTrig h :), (congrArg Voice.key h :)⟩

section
variable {s : State} {a nxt : Fin 16} {u : Fin 4}

theorem stepAssigned_still :
    (stepAssigned a nxt s).voices[u].still = s.voices[u].still.given (stepNote s.params (currentSeq s) a u) := by
  simp only [stepAssigned, State.withSeq_voices, State.withOutbox_voices]
  exact notesGiven_still _ s u

/-- A silent step marks the voice it leaves. -/
theorem stepAssigned_voice :
    (stepAssigned a nxt s).voices[u].note = stepNote s.params (currentSeq s) a u ∧
    (stepAssigned a nxt s).voices[u].key = s.voices[u].key ∧
    (stepAssigned a nxt s).voices[u].sounding =
      ((stepNote s.params (currentSeq s) a u).isSome || s.voices[u].sounding) ∧
    (stepAssigned a nxt s).voices[u].muteOnTrig = (stepNote s.params (currentSeq s) a u).isNone := by
  have hstill := stepAssigned_still (s := s) (a := a) (nxt := nxt) (u := u)
  obtain ⟨hnote, hsounding, hmute, hkey⟩ := still_fields (hstill.trans (given_still _ _))
  exact ⟨hnote, hkey, hsounding, hmute⟩

/-- The trigger keeps every note and key, and an unmarked voice sounds on. -/
theorem stepSounded_voice {vel : Int} :
    (stepSounded vel s).voices[u].note = s.voices[u].note ∧ (stepSounded vel s).voices[u].key = s.voices[u].key ∧
    (s.voices[u].sounding = true → s.voices[u].muteOnTrig = false →
      (stepSounded vel s).voices[u].sounding = true ∧ (stepSounded vel s).voices[u].muteOnTrig = false) := by
  have hvoice : (stepSounded vel s).voices[u] = (envTriggerWith vel s).voices[u] := rfl
  rw [hvoice]
  rcases envTriggerWith_still vel s u with h | h
  · obtain ⟨hnote, hsounding, hmute, hkey⟩ := still_fields h
    exact ⟨hnote, hkey, fun hs hm => ⟨hsounding.trans hs, hmute.trans hm⟩⟩
  · obtain ⟨hnote, hsounding, hmute, hkey⟩ := still_fields h
    exact ⟨hnote, hkey, fun hs hm => ⟨hsounding.trans (by rw [applyMute, hs, hm]; rfl), hmute⟩⟩

end

/-! ## Both kinds of step -/

section
variable {s : State} (hdiv : 0 < s.clock.div) {a nxt : Fin 16}
include hdiv

theorem stepPlay_of_silent (h : ∀ v, stepNote s.params (currentSeq s) a v = none) :
    stepPlay a nxt s = stepAssigned a nxt s := by
  have hbatch : stepBatch s.params (currentSeq s) a = Vector.replicate 4 none := by
    by_contra hne
    obtain ⟨v, hv⟩ := (stepBatch_ne_iff _ _ _).1 hne
    exact hv (h v)
  rw [stepPlay_eq hdiv, if_pos hbatch]

theorem stepPlay_of_sounding (h : ∃ v, stepNote s.params (currentSeq s) a v ≠ none) :
    stepPlay a nxt s = stepSounded (currentSeq s).vel[a] (stepAssigned a nxt s) := by
  rw [stepPlay_eq hdiv, if_neg ((stepBatch_ne_iff _ _ _).2 h)]

theorem stepPlay_eq_or :
    stepPlay a nxt s = stepAssigned a nxt s ∨
    stepPlay a nxt s = stepSounded (currentSeq s).vel[a] (stepAssigned a nxt s) := by
  rw [stepPlay_eq hdiv]
  exact ite_eq_or_eq _ _ _

/-- The transport of a step played: its release scheduled, unless the next step is tied to it. -/
theorem stepPlay_seq :
    (stepPlay a nxt s).seq =
      { s.seq with pendRel := if (currentSeq s).tie[nxt] then none else some (releasePulse s) } := by
  rcases stepPlay_eq_or hdiv (a := a) (nxt := nxt) with h | h
  · rw [h]; rfl
  · rw [h, stepSounded_seq]; rfl

theorem stepPlay_seqNotes : (stepPlay a nxt s).outbox.seqNotes = stepBatch s.params (currentSeq s) a := by
  rcases stepPlay_eq_or hdiv (a := a) (nxt := nxt) with h | h
  · rw [h]; rfl
  · rw [h]; rfl

/-- Every voice has its note and keeps its key, and a voice given a note sounds unmarked. -/
theorem stepPlay_voice (u : Fin 4) :
    (stepPlay a nxt s).voices[u].note = stepNote s.params (currentSeq s) a u ∧
    (stepPlay a nxt s).voices[u].key = s.voices[u].key ∧
    (stepNote s.params (currentSeq s) a u ≠ none →
      (stepPlay a nxt s).voices[u].sounding = true ∧ (stepPlay a nxt s).voices[u].muteOnTrig = false) := by
  obtain ⟨hnote, hkey, hsounding, hmute⟩ := stepAssigned_voice (s := s) (a := a) (nxt := nxt) (u := u)
  have hgiven (hne : stepNote s.params (currentSeq s) a u ≠ none) :
      (stepAssigned a nxt s).voices[u].sounding = true ∧ (stepAssigned a nxt s).voices[u].muteOnTrig = false := by
    obtain ⟨n, hn⟩ := Option.ne_none_iff_exists'.1 hne
    rw [hsounding, hmute, hn]; exact ⟨rfl, rfl⟩
  rcases stepPlay_eq_or hdiv (a := a) (nxt := nxt) with h | h
  · rw [h]; exact ⟨hnote, hkey, hgiven⟩
  · obtain ⟨hnote', hkey', hsound⟩ :=
      stepSounded_voice (s := stepAssigned a nxt s) (u := u) (vel := (currentSeq s).vel[a])
    rw [h]
    exact ⟨hnote'.trans hnote, hkey'.trans hkey, fun hne => hsound (hgiven hne).1 (hgiven hne).2⟩

end

/-- Settles O50: the step's two kinds over one assignment of notes, which leaves the envelope to the trigger. -/
theorem stepPlayAssignsTriggersAndEchoes : Obligations.StepPlayAssignsTriggersAndEchoes := by
  refine ⟨rfl, fun s a nxt hdiv => ?_⟩
  intro S note dur t
  have hseq : t.seq = _ := stepPlay_seq hdiv
  refine ⟨?played, fun v => ?voice, hseq, fun hsome => ?echoed, fun hnone => ?quiet, ?frame⟩
  case played =>
    intro given m
    have hm : m = stepAssigned a nxt s := congrArg (State.withSeq _) hseq
    refine ⟨fun hnone => (stepPlay_of_silent hdiv hnone).trans hm.symm,
      fun hsome => ⟨envTriggerWith S.vel[a] m, envTriggerWith_triggered _ _, ?_⟩⟩
    have ht : t = stepSounded S.vel[a] m := hm ▸ stepPlay_of_sounding hdiv hsome
    rw [ht]; rfl
  case voice =>
    obtain ⟨hnote, hkey, hsound⟩ := stepPlay_voice hdiv (a := a) (nxt := nxt) v
    have hbatch : t.outbox.seqNotes = _ := stepPlay_seqNotes hdiv
    refine ⟨?_, hnote, hkey, hsound⟩
    rw [hbatch]; exact stepBatch_getElem _ _ _ v
  case echoed =>
    have ht : t = stepSounded S.vel[a] (stepAssigned a nxt s) := stepPlay_of_sounding hdiv hsome
    obtain ⟨hvel, hstage⟩ := envTriggerWith_env S.vel[a] (stepAssigned a nxt s)
    rw [ht]
    exact ⟨rfl, hvel, hstage⟩
  case quiet =>
    have ht : t = stepAssigned a nxt s := stepPlay_of_silent hdiv hnone
    rw [ht]
    refine ⟨rfl, stepAssigned_env a nxt s, fun v => ?_⟩
    obtain ⟨-, -, hsounding, hmute⟩ := stepAssigned_voice (s := s) (a := a) (nxt := nxt) (u := v)
    have hv : stepNote s.params (currentSeq s) a v = none := hnone v
    rw [hsounding, hmute, hv]; exact ⟨rfl, rfl⟩
  case frame => simp [t]

end Sys2Proof.Machine
end

section
/-! PROOFS. The capture of held keys in edit mode (47_sequencer R335, 49_voice_allocator R375): nothing that KEY_ON does
to the voices and the envelope reads the transport, so edit mode adds the capture and no more. -/

namespace Sys2Proof.Machine

/-! ## The note policies do not read the transport -/

section
variable (s : State) (x : Transport)

theorem setNote_withSeq (v : Fin 4) (n : Option Note) : setNote v n (s.withSeq x) = (setNote v n s).withSeq x := by
  cases n with
  | none => rfl
  | some n => rfl

theorem markOthers_withSeq (v : Fin 4) : markOthers v (s.withSeq x) = (markOthers v s).withSeq x := by
  match v with
  | 0 | 1 | 2 | 3 => rfl

theorem enterAttack_withSeq : enterAttack (s.withSeq x) = (enterAttack s).withSeq x := by
  simp only [enterAttack, retrigLfo_eq]; rfl

theorem envTrigStep_withSeq : envTrigStep (s.withSeq x) = (envTrigStep s).withSeq x := by
  simp only [envTrigStep, enterAttack_withSeq, apply_ite (State.withSeq · x)]; rfl

theorem envTriggerWith_withSeq (vel : Int) : envTriggerWith vel (s.withSeq x) = (envTriggerWith vel s).withSeq x := by
  rw [envTriggerWith, envTriggerWith, ← envTrigStep_withSeq]; rfl

theorem assignUnison_withSeq (k : Note) (v : Fin 4) :
    assignUnison k v (s.withSeq x) = (assignUnison k v s).withSeq x := by
  simp only [assignUnison, setNote_withSeq, apply_ite (State.withSeq · x)]; rfl

theorem monoAssign_withSeq (k : Note) : monoAssign k (s.withSeq x) = (monoAssign k s).withSeq x := by
  have hkey : setKey 0 (some k) ((s.withSeq x).mapVoices fun y => { y with key := none }) =
      (setKey 0 (some k) (s.mapVoices fun y => { y with key := none })).withSeq x := rfl
  simp only [monoAssign, forVoices, hkey, assignUnison_withSeq]

theorem paraKeyOn_withSeq (k : Note) (vel : Int) : paraKeyOn k vel (s.withSeq x) = (paraKeyOn k vel s).withSeq x := by
  have howner : voiceOfKey k (s.withSeq x) = voiceOfKey k s := rfl
  have hfree : freeVoice (s.withSeq x) = freeVoice s := rfl
  rw [paraKeyOn, paraKeyOn, howner, hfree]
  cases voiceOfKey k s with
  | some v => simp only [setNote_withSeq, envTriggerWith_withSeq]
  | none =>
    cases freeVoice s with
    | none => rfl
    | some v =>
      have hkey : setKey v (some k) (s.withSeq x) = (setKey v (some k) s).withSeq x := rfl
      have hany : anyKey (s.withSeq x) = anyKey s := rfl
      simp only [hkey, hany, setNote_withSeq, markOthers_withSeq, ← envTriggerWith_withSeq,
        apply_ite (State.withSeq · x)]

theorem monoKeyOn_withSeq (k : Note) (vel : Int) : monoKeyOn k vel (s.withSeq x) = (monoKeyOn k vel s).withSeq x := by
  have hheld (c : Alloc) : (s.withSeq x).withAlloc c = (s.withAlloc c).withSeq x := rfl
  simp only [monoKeyOn, State.withSeq_alloc, State.withSeq_params, hheld, monoAssign_withSeq, envTriggerWith_withSeq,
    apply_ite (State.withSeq · x)]

end

/-! ## KEY_ON (49_voice_allocator R375) -/

/-- What KEY_ON does while the arpeggiator is off, but for the capture. -/
def keyPlayed (k : Note) (vel : Int) (s : State) : State :=
  if s.alloc.voiceMode = .paraphonic then paraKeyOn k vel s else monoKeyOn k vel s

theorem keyPlayed_frame (k : Note) (vel : Int) (s : State) :
    (keyPlayed k vel s).seq = s.seq ∧ (keyPlayed k vel s).mem = s.mem := by
  unfold keyPlayed
  split <;> simp

theorem keyPlayed_withSeq (k : Note) (vel : Int) (s : State) (x : Transport) :
    keyPlayed k vel (s.withSeq x) = (keyPlayed k vel s).withSeq x := by
  simp only [keyPlayed, paraKeyOn_withSeq, monoKeyOn_withSeq, State.withSeq_alloc, apply_ite (State.withSeq · x)]

theorem exec_keyOn_of_arp_off {s : State} (h : s.arp.on = false) (addr : AddrField) (data : DataField) :
    exec (.keyOn addr data) s =
      (let m := keyPlayed (noteOperand s.params addr) (velOperand data) s
       .next (if s.seq.edit then seqCapture m else m)) := by
  have hedit : (keyPlayed (noteOperand s.params addr) (velOperand data) s).seq.edit = s.seq.edit :=
    congrArg (·.edit) (keyPlayed_frame _ _ s).1
  rw [exec, execKeyOn, if_neg (Bool.eq_false_iff.1 h)]
  simp only [← hedit]; rfl

/-! ## The capture (R335) -/

/-- A sequence with the voices' notes captured into one step. -/
def captured (S : Sequence) (voices : Vector Voice 4) (step : Fin 16) : Sequence :=
  { S with notes := Vector.ofFn fun v => S.notes[v].set step (capturedNote voices[v]) }

theorem capturedNote_eq (x : Voice) :
    capturedNote x = if x.sounding = true ∧ x.muteOnTrig = false then x.note else none := by
  simp only [capturedNote, Bool.and_eq_true, Bool.not_eq_true']

/-- The captured step is written in every voice's row, every other step is kept. -/
theorem captured_notes (S : Sequence) (voices : Vector Voice 4) (step : Fin 16) (v : Fin 4) (t : Fin 16) :
    (captured S voices step).notes[v][t] = if t = step then capturedNote voices[v] else S.notes[v][t] := by
  simp only [captured, Fin.getElem_fin, Vector.getElem_ofFn, Vector.getElem_set, Fin.ext_iff, eq_comm]

/-- The capture goes into the selected sequence and step of the state the keys were played in. -/
theorem seqCapture_eq {s m : State} (hseq : m.seq = s.seq) (hmem : m.mem = s.mem) :
    seqCapture m = m.withMem { s.mem with
      seq := s.mem.seq.set s.seq.sel (captured s.mem.seq[s.seq.sel] m.voices s.seq.editStep) } := by
  simp only [seqCapture, hseq, hmem]; rfl

/-- Settles O60: the keys are played alike in and out of edit mode, and in it the result is captured. -/
theorem editModeCapturesHeldNotes : Obligations.EditModeCapturesHeldNotes := by
  intro s addr data harp hedit
  have hoff : (s.withSeq { s.seq with edit := false }).arp.on = false := harp
  obtain ⟨hseq, hmem⟩ := keyPlayed_frame (noteOperand s.params addr) (velOperand data) s
  refine ⟨(keyPlayed (noteOperand s.params addr) (velOperand data) s).withSeq { s.seq with edit := false },
    captured s.mem.seq[s.seq.sel] (keyPlayed (noteOperand s.params addr) (velOperand data) s).voices s.seq.editStep,
    ?outside, ?inside, fun v t => ?notes, rfl⟩
  case outside => rw [exec_keyOn_of_arp_off hoff, ← keyPlayed_withSeq]; rfl
  case inside =>
    have hself : (keyPlayed (noteOperand s.params addr) (velOperand data) s).withSeq s.seq =
        keyPlayed (noteOperand s.params addr) (velOperand data) s := by rw [← hseq, State.withSeq_self]
    rw [exec_keyOn_of_arp_off harp]
    simp only [hedit, if_true, seqCapture_eq hseq hmem, State.withSeq_withSeq, hself]
  case notes => rw [captured_notes, capturedNote_eq]; rfl

end Sys2Proof.Machine
end

section
/-! PROOFS. Every operation survives its encoding (30_encoding R101, R102, R103), the words of the rules' examples, and
the step as the run of the decoded request (30_encoding R107, 60_exceptions R416). -/

namespace Sys2Proof.Machine

/-! ## The decoder against the encoder -/

/-- Settles O10: `packWord` keeps the operation code, which selects the decoder's branch, and the fields that branch
reads. -/
theorem decodeInvertsEncode : Obligations.DecodeInvertsEncode := by
  intro i
  cases i
  all_goals
    rw [decode, encode, opOf_packWord]
    refine congrArg Except.ok ?_
    simp only [selOf_packWord, addrOf_packWord, dataOf_packWord, seqFieldOf_packSeqAddr, seqSubOf_packSeqAddr,
      stepOf_packSeqAddr]

/-- Settles O12: seventeen closed words. -/
theorem exampleWordsDecode : Obligations.ExampleWordsDecode := by
  unfold Obligations.ExampleWordsDecode
  decide

/-! ## One step (R109, log 1, 2, 4) -/

theorem step_of_arbitrate {s t : State} {w : CmdWord} (h : arbitrate (accept s) = some (w, t)) :
    step s = runWord w t := by
  rw [step, h]; rfl

theorem step_of_idle {s : State} (h : arbitrate (accept s) = none) : step s = .next (idled (accept s)) := by
  rw [step, h]; rfl

theorem runWord_of_decode_error {w : CmdWord} {e : DecodeError} (h : decode w = .error e) (s : State) :
    runWord w s = .next (s.withStatus { s.status with illegalCmd := true }) := by
  rw [runWord, h]; rfl

/-- A word placed on CMD is next in line, with nothing arriving before it and no other request waiting. -/
theorem arbitrate_accept_present (s : State) (w : CmdWord) :
    arbitrate (accept (s.present w)) =
      some (w, s.withPorts { s.ports with audioReq := false, strobes := [], cmdReady := true }) := by
  have haccept : accept (s.present w) = (s.present w).withInputs { s.inputs with cmdQueue := w :: s.inputs.cmdQueue } :=
    accept_of_cons (batch := []) (rest := s.inputs.arrivals) rfl
  rw [haccept]
  exact arbitrate_cmd rfl rfl rfl

theorem withFetchWord_encode (s : State) (i : Instr) : s.withFetchWord 64 (encode i).toNat = s.present (encode i) := by
  rw [State.withFetchWord, Nat.mod_eq_of_lt (encode i).isLt, BitVec.ofNat_toNat, BitVec.setWidth_eq]

/-- Settles O15: the request that the arbiter takes is run, and a word placed on CMD is the one it takes. -/
theorem stepRunsTheDecodedOperation : Obligations.StepRunsTheDecodedOperation := by
  refine ⟨fun s t w h => ⟨fun i hi => ?defined, fun e he => ?undefined⟩, fun s h => step_of_idle h, fun s i => ?placed⟩
  case defined => rw [step_of_arbitrate h, runWord_of_decode hi]
  case undefined => rw [step_of_arbitrate h, runWord_of_decode_error he]
  case placed =>
    rw [withFetchWord_encode, step_of_arbitrate (arbitrate_accept_present s _),
      runWord_of_decode (decodeInvertsEncode i)]

end Sys2Proof.Machine
end

section
/-! PROOFS. Reset and the operations of the system (70_reset_and_hazards R440 to R445, 60_exceptions R412, R414,
R425). -/

namespace Sys2Proof.Machine

/-! ## NOP, CLR_STATUS, REPORT_STORE_ERR, OUTBOX_DRAIN -/

/-- A bit under a mask survives exactly where the mask does not name it. -/
theorem and_not_eq_ite (b m : Bool) : (b && !m) = if m then false else b := by
  cases m with
  | false => exact Bool.and_true b
  | true => exact Bool.and_false b

/-- Settles O17: CLR_STATUS keeps a bit exactly where its mask does not name it; the other two are their definitions. -/
theorem nopAndStatusOperations : Obligations.NopAndStatusOperations := by
  refine fun s mask => ⟨rfl, ?clear, exec_reportStoreErr s⟩
  case clear => rw [exec_clrStatus, clearSticky, and_not_eq_ite, and_not_eq_ite]

/-- Settles O20: the response is built before the outbox is emptied. -/
theorem drainAnswersAndEmptiesOutbox : Obligations.DrainAnswersAndEmptiesOutbox := fun _ => rfl

/-! ## Reset -/

/-- Settles O1: each register's reset value by computation; those of a kind are the entries of one replicated vector. -/
theorem resetRegistersHoldListedValues : Obligations.ResetRegistersHoldListedValues :=
  ⟨fun o => Vector.getElem_replicate o.isLt, fun v => Vector.getElem_replicate v.isLt,
    fun e => Vector.getElem_replicate e.isLt, rfl, rfl, rfl, rfl, rfl, rfl, rfl, rfl, rfl,
    fun k => Vector.getElem_replicate k.isLt, rfl, rfl, rfl, rfl,
    ⟨rfl, rfl, rfl, fun i => Vector.getElem_replicate i.isLt, rfl, rfl⟩, rfl, rfl, rfl, rfl⟩

/-- RESET answers the reset state of the configuration, over the inputs and CMD_READY as they were. -/
theorem exec_reset (s : State) :
    exec .reset s = .next
      (((State.resetWith s.params).withInputs s.inputs).withPorts
        { audioReq := false, strobes := [], cmdReady := s.ports.cmdReady, rspValid := false, rsp := 0 }) := rfl

/-- Settles O19: the configuration enters the reset values in four fields. -/
theorem resetOperationRestoresReset : Obligations.ResetOperationRestoresReset := by
  refine ⟨exec_reset, rfl, rfl, fun p => ?_⟩
  rw [← coefMax_eq]; rfl

/-- Gain amount 0 leaves every sample as it is (45_waveshaper_gain R261). -/
theorem gainEntry_zero (p : Params) {x : Nat} (hx : x < 4096) : gainEntry p 0 x = BitVec.ofNat 12 x := by
  have hdriven : driven ((x : Int) - 2048) 1024 = x - 2048 := by rw [driven, asr_eq]; omega
  rw [gainEntry, Int.mul_zero, Int.add_zero, Config.centre, hdriven, add_sub_cancel,
    clamp_eq_self (by omega) (by rw [Config.sampleMax]; omega)]
  exact BitVec.ofInt_natCast 12 x

section
variable (p : Params)

theorem resetWith_read (T : Space) (a : Nat) : (State.resetWith p).mem.read T a = T.unlisted a := reset_read T a

/-- The tables after reset are those of volume 1023, of the identity curve and of gain amount 0. -/
theorem resetWith_tablesMatch : TablesMatch (State.resetWith p) where
  vol e x _ := by
    have hvol : (State.resetWith p).engines[e].volume = 1023 :=
      congrArg Engine.volume (Vector.getElem_replicate e.isLt)
    rw [resetWith_read, hvol]; rfl
  shaper x _ := by rw [resetWith_read]; rfl
  gain x hx := by
    have hgain : gainEntry p 0 x = BitVec.ofNat 12 x := gainEntry_zero p hx
    rw [resetWith_read]; exact hgain.symm

end

/-- Under the default configuration, by computation. -/
theorem reset_inv : Inv State.reset where
  params := standard_legal
  osc := by decide
  voices := by decide
  keys := by decide
  engines := by decide
  pw := by decide
  mixer := by decide
  env := by decide
  envMod := by decide
  lfo := by decide
  lfoMod := by decide
  qVel := by decide
  vel := by decide
  matrix := by decide
  ui := by decide
  filter := by decide
  shape := by decide
  alloc := by decide
  clock := by decide
  ext := by decide
  seq := by decide
  arp := by decide
  outbox := by decide
  mem := ⟨by decide, by decide⟩
  ports := by decide

section
variable {p : Params}

/-! A part whose range the configuration enters is checked again; the rest is as under the default one. -/

theorem optNote_of_eq_none {x : Option Note} (h : x = none) : OptNote p x := h ▸ OptNote.none

theorem Sequence.cleared_ok : SequenceOk p Sequence.cleared :=
  ⟨fun v t => optNote_of_eq_none (by simp [Sequence.cleared]), by decide, by decide, by decide, by decide, by decide,
    by decide, by decide, Nat.zero_le _, by decide⟩

/-- Under a legal configuration every reset value is in its range. -/
theorem resetWith_inv (hp : p.Legal) : Inv (State.resetWith p) where
  params := hp
  osc o := by
    have hcycle : 0 < p.cycle := hp.incMax.1.trans hp.incMax.2
    have hinc : IsInc p 0 := ⟨le_rfl, hp.incMax.1.le⟩
    have ho : (State.resetWith p).osc[o] = { phase := 0, inc := 0, lastTgt := 0, tgtValid := false, portaFrom := 0 } :=
      Vector.getElem_replicate o.isLt
    rw [ho]
    exact ⟨⟨le_rfl, hcycle⟩, hinc, hinc, hinc⟩
  voices v := by
    have hv : (State.resetWith p).voices[v] =
        { note := none, sounding := false, muteOnTrig := false, key := none, portaT0 := 0#32, gliding := false } :=
      Vector.getElem_replicate v.isLt
    rw [hv]
    exact ⟨OptNote.none, OptNote.none⟩
  keys := reset_inv.keys
  engines e := by
    have hdetune : -p.detuneMax ≤ 0 ∧ 0 ≤ p.detuneMax := ⟨neg_nonpos.2 hp.detune, hp.detune⟩
    have he : (State.resetWith p).engines[e] = { wave := .sine, octave := 0, volume := 1023, detune := 0 } :=
      Vector.getElem_replicate e.isLt
    rw [he]
    exact ⟨hp.oct, by decide, hdetune⟩
  pw := reset_inv.pw
  mixer := ⟨Nat.zero_le _, reset_inv.mixer.2⟩
  env := reset_inv.env
  envMod := reset_inv.envMod
  lfo := by
    obtain ⟨hindex, hcounter, hval, heighth, -, hrange⟩ := reset_inv.lfo
    obtain ⟨-, hticks, -⟩ := hp.ticks
    exact ⟨hindex, hcounter, hval, heighth, ⟨le_max_left _ _, max_le hticks (min_le_left _ _)⟩, hrange⟩
  lfoMod := reset_inv.lfoMod
  qVel := reset_inv.qVel
  vel := reset_inv.vel
  matrix := reset_inv.matrix
  ui := by
    obtain ⟨-, -, -, hframe⟩ := reset_inv.ui
    obtain ⟨hrefresh, harrow, hblink⟩ := hp.ui
    exact ⟨hrefresh, harrow, hblink, hframe⟩
  filter := by
    obtain ⟨hlp0, hlp1, -⟩ := reset_inv.filter
    have hcoef := coefMax_nonneg p
    have hcut : 0 ≤ min 255 p.coefMax ∧ min 255 p.coefMax ≤ p.coefMax := ⟨le_min (by decide) hcoef, min_le_right _ _⟩
    exact ⟨hlp0, hlp1, hcut, ⟨le_rfl, mul_nonneg (by decide) hcoef⟩, hcut, le_rfl, hcoef⟩
  shape := ⟨hp.shaper, reset_inv.shape.2⟩
  alloc := by
    obtain ⟨hcount, -, -, hporta, -⟩ := reset_inv.alloc
    refine ⟨hcount, ⟨le_rfl, hp.spread⟩, fun v => ?_, hporta, Nat.zero_le _, nofun, List.nodup_nil⟩
    have hv : (State.resetWith p).alloc.unisonOff[v] = 0 := Vector.getElem_replicate v.isLt
    rw [hv]
    exact ⟨le_rfl, mul_nonneg (by decide) hp.spread⟩
  clock := by
    obtain ⟨-, heighth, -, -, hbpm⟩ := reset_inv.clock
    have hdiv : 2 ≤ p.divTable[(2 : Fin 4)] := (hp.div 2).1
    have hpulse : 0 < 2 * p.divTable[(2 : Fin 4)] := by omega
    exact ⟨hpulse, heighth, ⟨2, rfl⟩, Nat.zero_le _, hbpm⟩
  ext := reset_inv.ext
  seq := by
    obtain ⟨hstep, -, hdir⟩ := reset_inv.seq
    exact ⟨hstep, OptPulse.none _, hdir⟩
  arp := by
    obtain ⟨⟨hraw, -, hnodup⟩, ⟨hsorted, -⟩, hlen, hpos, hoct, -, -, hvel⟩ := reset_inv.arp
    exact ⟨⟨hraw, nofun, hnodup⟩, ⟨hsorted, nofun⟩, hlen, hpos, hoct, OptPulse.none _, OptNote.none, hvel⟩
  outbox := by
    obtain ⟨-, -, -, -, hclock, -⟩ := reset_inv.outbox
    exact ⟨nofun, OptNote.none, nofun, nofun, hclock, fun v => optNote_of_eq_none (Vector.getElem_replicate v.isLt)⟩
  mem := ⟨reset_mem_wf, fun q => by
    have hq : (State.resetWith p).mem.seq[q] = Sequence.cleared := reset_seq q
    rw [hq]
    exact Sequence.cleared_ok⟩
  ports := List.nodup_nil

end

/-- Settles O3: the default configuration is one of the legal ones. -/
theorem resetStateIsLegal : Obligations.ResetStateIsLegal :=
  ⟨⟨resetWith_inv standard_legal, resetWith_tablesMatch _⟩, fun p hp => ⟨resetWith_inv hp, resetWith_tablesMatch p⟩⟩

end Sys2Proof.Machine
end

section
/-! PROOFS. What the operations leave: the parts of the audio path that only AUDIO_TICK and RESET move (10_state R21,
R29, R30, 44_filter R254), and the parts that only the storing operations change (20_memory R70, 60_exceptions R411).
Both are read off the frames of the shared operations. -/

namespace Sys2Proof.Machine

/-! ## The parts -/

/-- What only AUDIO_TICK and RESET move, with the configuration, which nothing moves. -/
structure AudioParts where
  params : Params
  phases : Vector Int 8
  lp0 : Int
  lp1 : Int
  loadRamp : Int
  outL : Sample
  outR : Sample

def State.audioParts (s : State) : AudioParts where
  params := s.params
  phases := s.osc.map Osc.phase
  lp0 := s.filter.lp0
  lp1 := s.filter.lp1
  loadRamp := s.mixer.loadRamp
  outL := s.mixer.outL
  outR := s.mixer.outR

/-- What only an operation that stores changes (`setsStored`, `mayEdit`): the sticky bits, the memories
and the parameters of the lookup tables. -/
structure StoredParts where
  params : Params
  status : Status
  shape : ShapeParams
  volumes : Vector Int 2
  mem : Memory

def State.storedParts (s : State) : StoredParts where
  params := s.params
  status := s.status
  shape := s.shape
  volumes := s.engines.map Engine.volume
  mem := s.mem

/-- The operations that set a sticky bit, a parameter of a lookup table or a word of a table. -/
def setsStored : Instr → Bool
  | .reset | .clrStatus _ | .reportStoreErr => true
  | .setVolume _ _ | .writeWavetable _ _ _ | .setShaper _ _ | .setGain _ => true
  | _ => false

/-! ## The phases and the filter registers under the shared operations

Every other part is in the frames; these are fields of records that the operations below change elsewhere. -/

theorem deriveOsc_phase (s : State) (o : Fin 8) : (deriveOsc s o).phase = s.osc[o].phase := by
  rw [deriveOsc]
  cases s.voices[voiceOf o].note with
  | none => rfl
  | some n => rfl

@[simp] theorem deriveIncrements_audioRegs (s : State) :
    (deriveIncrements s).osc.map Osc.phase = s.osc.map Osc.phase ∧ (deriveIncrements s).filter.lp0 = s.filter.lp0 ∧
    (deriveIncrements s).filter.lp1 = s.filter.lp1 := by
  refine ⟨Vector.ext fun i hi => ?_, rfl, rfl⟩
  rw [Vector.getElem_map, Vector.getElem_map]
  exact (congrArg Osc.phase (deriveIncrements_osc s ⟨i, hi⟩)).trans (deriveOsc_phase s ⟨i, hi⟩)

@[simp] theorem startGlide_phases (s : State) (o : Fin 8) :
    (s.setOsc o (startGlide s.osc[o])).osc.map Osc.phase = s.osc.map Osc.phase := by
  refine Vector.ext fun i hi => ?_
  simp only [State.setOsc, State.withOsc_osc, Vector.getElem_map, Vector.getElem_set]
  split
  · next h => subst h; rfl
  · rfl

@[simp] theorem updateFilterCoef_filterRegs (s : State) :
    (updateFilterCoef s).filter.lp0 = s.filter.lp0 ∧ (updateFilterCoef s).filter.lp1 = s.filter.lp1 := ⟨rfl, rfl⟩

@[simp] theorem setNote_audioRegs (v : Fin 4) (x : Option Note) (s : State) :
    (setNote v x s).osc.map Osc.phase = s.osc.map Osc.phase ∧ (setNote v x s).filter.lp0 = s.filter.lp0 ∧
    (setNote v x s).filter.lp1 = s.filter.lp1 := by
  cases x with
  | none => simp [setNote]
  | some n => simp [setNote, -Fin.getElem_fin]

@[simp] theorem enterAttack_audioRegs (s : State) :
    (enterAttack s).osc.map Osc.phase = s.osc.map Osc.phase ∧ (enterAttack s).filter.lp0 = s.filter.lp0 ∧
    (enterAttack s).filter.lp1 = s.filter.lp1 := by simp [enterAttack]

@[simp] theorem envTrigStep_audioRegs (s : State) :
    (envTrigStep s).osc.map Osc.phase = s.osc.map Osc.phase ∧ (envTrigStep s).filter.lp0 = s.filter.lp0 ∧
    (envTrigStep s).filter.lp1 = s.filter.lp1 := by
  unfold envTrigStep; split <;> simp

@[simp] theorem envTriggerWith_audioRegs (vel : Int) (s : State) :
    (envTriggerWith vel s).osc.map Osc.phase = s.osc.map Osc.phase ∧ (envTriggerWith vel s).filter.lp0 = s.filter.lp0 ∧
    (envTriggerWith vel s).filter.lp1 = s.filter.lp1 := by simp [envTriggerWith]

@[simp] theorem envComplete_audioRegs (s : State) :
    (envComplete s).osc.map Osc.phase = s.osc.map Osc.phase ∧ (envComplete s).filter.lp0 = s.filter.lp0 ∧
    (envComplete s).filter.lp1 = s.filter.lp1 := by simp [envComplete]

@[simp] theorem envEvaluated_audioRegs (s : State) :
    (envEvaluated s).osc.map Osc.phase = s.osc.map Osc.phase ∧ (envEvaluated s).filter.lp0 = s.filter.lp0 ∧
    (envEvaluated s).filter.lp1 = s.filter.lp1 := by simp [envEvaluated]

@[simp] theorem envTickStep_audioRegs (s : State) :
    (envTickStep s).osc.map Osc.phase = s.osc.map Osc.phase ∧ (envTickStep s).filter.lp0 = s.filter.lp0 ∧
    (envTickStep s).filter.lp1 = s.filter.lp1 := by
  simp only [envTickStep]
  repeat' split
  all_goals simp

@[simp] theorem lfoOctaves_audioRegs (s : State) :
    (lfoOctaves s).osc.map Osc.phase = s.osc.map Osc.phase ∧ (lfoOctaves s).filter.lp0 = s.filter.lp0 ∧
    (lfoOctaves s).filter.lp1 = s.filter.lp1 := by
  unfold lfoOctaves; split <;> simp

@[simp] theorem lfoOutputs_audioRegs (s : State) :
    (lfoOutputs s).osc.map Osc.phase = s.osc.map Osc.phase ∧ (lfoOutputs s).filter.lp0 = s.filter.lp0 ∧
    (lfoOutputs s).filter.lp1 = s.filter.lp1 := by simp [lfoOutputs]

@[simp] theorem playVoice_audioRegs (S : Sequence) (t : Fin 16) (v : Fin 4) (s : State) :
    (playVoice S t v s).osc.map Osc.phase = s.osc.map Osc.phase ∧ (playVoice S t v s).filter.lp0 = s.filter.lp0 ∧
    (playVoice S t v s).filter.lp1 = s.filter.lp1 := by
  simp only [playVoice]
  repeat' split
  all_goals simp

@[simp] theorem stepPlay_audioRegs (t nxt : Fin 16) (s : State) :
    (stepPlay t nxt s).osc.map Osc.phase = s.osc.map Osc.phase ∧ (stepPlay t nxt s).filter.lp0 = s.filter.lp0 ∧
    (stepPlay t nxt s).filter.lp1 = s.filter.lp1 := by
  simp only [stepPlay, forVoices]
  repeat' split
  all_goals simp

@[simp] theorem playStep_audioRegs (t nxt : Fin 16) (s : State) :
    (playStep t nxt s).osc.map Osc.phase = s.osc.map Osc.phase ∧ (playStep t nxt s).filter.lp0 = s.filter.lp0 ∧
    (playStep t nxt s).filter.lp1 = s.filter.lp1 := by
  simp only [playStep]
  repeat' split
  all_goals simp

@[simp] theorem assignUnison_audioRegs (k : Note) (v : Fin 4) (s : State) :
    (assignUnison k v s).osc.map Osc.phase = s.osc.map Osc.phase ∧ (assignUnison k v s).filter.lp0 = s.filter.lp0 ∧
    (assignUnison k v s).filter.lp1 = s.filter.lp1 := by
  unfold assignUnison; split <;> simp

@[simp] theorem arpAssign_audioRegs (m : Note) (s : State) :
    (arpAssign m s).osc.map Osc.phase = s.osc.map Osc.phase ∧ (arpAssign m s).filter.lp0 = s.filter.lp0 ∧
    (arpAssign m s).filter.lp1 = s.filter.lp1 := by
  unfold arpAssign; split <;> simp [forVoices]

@[simp] theorem arpPlay_audioRegs (m : Note) (s : State) :
    (arpPlay m s).osc.map Osc.phase = s.osc.map Osc.phase ∧ (arpPlay m s).filter.lp0 = s.filter.lp0 ∧
    (arpPlay m s).filter.lp1 = s.filter.lp1 := by simp [arpPlay]

@[simp] theorem arpStep_audioRegs (s : State) :
    (arpStep s).osc.map Osc.phase = s.osc.map Osc.phase ∧ (arpStep s).filter.lp0 = s.filter.lp0 ∧
    (arpStep s).filter.lp1 = s.filter.lp1 := by
  simp only [arpStep]
  repeat' split
  all_goals simp

@[simp] theorem arpDispatch_audioRegs (s : State) :
    (arpDispatch s).osc.map Osc.phase = s.osc.map Osc.phase ∧ (arpDispatch s).filter.lp0 = s.filter.lp0 ∧
    (arpDispatch s).filter.lp1 = s.filter.lp1 := by
  simp only [arpDispatch]
  repeat' split
  all_goals simp

@[simp] theorem paraKeyOn_audioRegs (k : Note) (vel : Int) (s : State) :
    (paraKeyOn k vel s).osc.map Osc.phase = s.osc.map Osc.phase ∧ (paraKeyOn k vel s).filter.lp0 = s.filter.lp0 ∧
    (paraKeyOn k vel s).filter.lp1 = s.filter.lp1 := by
  simp only [paraKeyOn]
  repeat' split
  all_goals simp

@[simp] theorem paraKeyOff_audioRegs (k : Note) (s : State) :
    (paraKeyOff k s).osc.map Osc.phase = s.osc.map Osc.phase ∧ (paraKeyOff k s).filter.lp0 = s.filter.lp0 ∧
    (paraKeyOff k s).filter.lp1 = s.filter.lp1 := by
  simp only [paraKeyOff]
  repeat' split
  all_goals simp

@[simp] theorem monoAssign_audioRegs (k : Note) (s : State) :
    (monoAssign k s).osc.map Osc.phase = s.osc.map Osc.phase ∧ (monoAssign k s).filter.lp0 = s.filter.lp0 ∧
    (monoAssign k s).filter.lp1 = s.filter.lp1 := by simp [monoAssign, forVoices]

@[simp] theorem monoKeyOn_audioRegs (k : Note) (vel : Int) (s : State) :
    (monoKeyOn k vel s).osc.map Osc.phase = s.osc.map Osc.phase ∧ (monoKeyOn k vel s).filter.lp0 = s.filter.lp0 ∧
    (monoKeyOn k vel s).filter.lp1 = s.filter.lp1 := by
  simp only [monoKeyOn]
  repeat' split
  all_goals simp

@[simp] theorem monoKeyOff_audioRegs (k : Note) (s : State) :
    (monoKeyOff k s).osc.map Osc.phase = s.osc.map Osc.phase ∧ (monoKeyOff k s).filter.lp0 = s.filter.lp0 ∧
    (monoKeyOff k s).filter.lp1 = s.filter.lp1 := by
  simp only [monoKeyOff]
  repeat' split
  all_goals simp

/-! ## The ticks -/

/-- `t` differs from `s` in what neither kind of part holds. -/
def SameParts (s t : State) : Prop := t.audioParts = s.audioParts ∧ t.storedParts = s.storedParts

theorem SameParts.refl (s : State) : SameParts s s := ⟨rfl, rfl⟩

theorem SameParts.trans {s t u : State} (h : SameParts s t) (h' : SameParts t u) : SameParts s u :=
  ⟨h'.1.trans h.1, h'.2.trans h.2⟩

/-- A read of a wave changes the inputs at most. -/
theorem eq_withInputs_of_wtRead {w : Wave} {i x : Int} {s t : State} (h : wtRead w i s = some (x, t)) :
    t = s.withInputs t.inputs := by
  cases w with
  | square => cases h; rfl
  | noise => cases h; rfl
  | _ =>
    obtain ⟨y, -, hy⟩ := Option.map_eq_some_iff.1 h
    cases hy; rfl

theorem lfoAdvance_sameParts {s t : State} (h : lfoAdvance s = some t) : SameParts s t := by
  obtain ⟨⟨x, u⟩, hread, ht⟩ := Option.bind_eq_some_iff.1 h
  have hu := eq_withInputs_of_wtRead hread
  cases ht
  rw [hu]
  constructor
  · simp [State.audioParts]
  · simp [State.storedParts]

theorem lfoTickStep_sameParts {s t : State} (h : lfoTickStep s = some t) : SameParts s t := by
  simp only [lfoTickStep] at h
  split at h
  · exact (lfoAdvance_sameParts h :)
  · cases h; exact .refl s

theorem switchIfCued_sameParts (s : State) : SameParts s (switchIfCued s) := by
  constructor
  · simp [State.audioParts]
  · simp [State.storedParts]

theorem stepIncrement_sameParts (len t : Nat) (s : State) : SameParts s (stepIncrement len t s).2 := by
  rw [stepIncrement_frame]; exact .refl s

theorem playStep_sameParts (t nxt : Fin 16) (s : State) : SameParts s (playStep t nxt s) := by
  constructor
  · simp [State.audioParts]
  · simp [State.storedParts]

theorem seqNextStep_sameParts {s t : State} (h : seqNextStep s = some t) : SameParts s t := by
  obtain ⟨a, -, h⟩ := Option.bind_eq_some_iff.1 h
  obtain ⟨nxt, -, h⟩ := Option.bind_eq_some_iff.1 h
  cases h
  exact (switchIfCued_sameParts s).trans ((stepIncrement_sameParts _ _ _).trans (playStep_sameParts a nxt _))

theorem seqDispatch_sameParts {s t : State} (h : seqDispatch s = some t) : SameParts s t := by
  have hdue : SameParts s (seqReleaseDue (swingAtZero s)) := by
    unfold seqReleaseDue
    constructor
    · split <;> simp [State.audioParts]
    · split <;> simp [State.storedParts]
  rw [seqDispatch_eq] at h
  split at h
  · exact hdue.trans (seqNextStep_sameParts h)
  · cases h; exact hdue

theorem clockDispatch_sameParts {s t : State} (h : clockDispatch s = some t) : SameParts s t := by
  unfold clockDispatch at h
  split at h
  · cases h
    constructor
    · simp [State.audioParts]
    · simp [State.storedParts]
  · split at h
    · exact (seqDispatch_sameParts h :)
    · cases h
      constructor
      · simp [State.audioParts]
      · simp [State.storedParts]

theorem clockTickStep_sameParts {s t : State} (h : clockTickStep s = some t) : SameParts s t := by
  obtain ⟨m, hm, rfl⟩ := Option.map_eq_some_iff.1 h
  have hbefore : SameParts s (beatStep (midiClockStep (lfoSyncPoint s))) := by
    constructor
    · simp [State.audioParts]
    · simp [State.storedParts]
  have hafter : SameParts m (pulseAdvance m) := by
    constructor
    · simp [State.audioParts]
    · simp [State.storedParts]
  exact hbefore.trans ((clockDispatch_sameParts hm).trans hafter)

/-- An engine's output changes the inputs at most. -/
theorem eq_withInputs_of_engineOut {e : Fin 2} {x : Int} {s t : State} (h : engineOut e s = some (x, t)) :
    t = s.withInputs t.inputs := by
  obtain ⟨⟨i, u⟩, hi, h⟩ := Option.bind_eq_some_iff.1 h
  obtain ⟨y, -, h⟩ := Option.bind_eq_some_iff.1 h
  cases h
  unfold engineIndex at hi
  split at hi
  · cases hi; rfl
  · obtain ⟨z, -, hz⟩ := Option.map_eq_some_iff.1 hi
    cases hz; rfl

theorem filterStep_storedParts (x : Int) (s : State) : (filterStep x s).2.storedParts = s.storedParts := by
  rw [filterStep_eq]; rfl

/-- An audio tick stores nothing. -/
theorem audioTickStep_storedParts {s t : State} (h : audioTickStep s = some t) : t.storedParts = s.storedParts := by
  obtain ⟨⟨vol0, s0⟩, h0, h⟩ := Option.bind_eq_some_iff.1 h
  obtain ⟨⟨vol1, s1⟩, h1, h⟩ := Option.bind_eq_some_iff.1 h
  obtain ⟨s6, -, h⟩ := Option.bind_eq_some_iff.1 h
  obtain ⟨s9, -, h⟩ := Option.bind_eq_some_iff.1 h
  have ht := Option.some.inj h
  have e0 := eq_withInputs_of_engineOut h0
  have e1 := eq_withInputs_of_engineOut h1
  calc t.storedParts = (filterStep s6 s1).2.storedParts := by rw [← ht]; rfl
    _ = s1.storedParts := filterStep_storedParts s6 s1
    _ = s.storedParts := by rw [e1, e0]; rfl

/-! ## The operations -/

theorem sameParts_iff {s t : State} :
    SameParts s t ↔ t.params = s.params ∧
      (t.osc.map Osc.phase = s.osc.map Osc.phase ∧ t.filter.lp0 = s.filter.lp0 ∧ t.filter.lp1 = s.filter.lp1) ∧
      t.mixer.loadRamp = s.mixer.loadRamp ∧ t.mixer.outL = s.mixer.outL ∧ t.mixer.outR = s.mixer.outR ∧
      t.status = s.status ∧ t.shape = s.shape ∧
      t.engines.map Engine.volume = s.engines.map Engine.volume ∧ t.mem = s.mem := by
  simp only [SameParts, State.audioParts, State.storedParts, AudioParts.mk.injEq, StoredParts.mk.injEq]
  tauto

/-- What an answer's next state, where there is one, satisfies. -/
def Answers (P : State → Prop) (r : Result) : Prop := ∀ t, r = .next t → P t

section
variable {P : State → Prop}

theorem Answers.done {t : State} (h : P t) : Answers P (done t) := by
  intro u hu
  cases hu
  exact h

theorem Answers.ite {c : Prop} [Decidable c] {a b : Result} (ha : Answers P a) (hb : Answers P b) :
    Answers P (if c then a else b) := by
  split
  · exact ha
  · exact hb

theorem Answers.orTableFault {o : Option State} (h : ∀ t, o = some t → P t) : Answers P (orTableFault o) := by
  cases o with
  | none =>
    intro t ht
    cases ht
  | some t => exact .done (h t rfl)

end

theorem setEngine_volumes {s : State} {e : Fin 2} {x : Engine} (hx : x.volume = s.engines[e].volume) :
    (s.setEngine e x).engines.map Engine.volume = s.engines.map Engine.volume := by
  refine Vector.ext fun i hi => ?_
  simp only [State.setEngine, State.withEngines_engines, Vector.getElem_map, Vector.getElem_set]
  split
  · next h => subst h; exact hx
  · rfl

theorem setEngine_sameParts {s : State} {e : Fin 2} {x : Engine} (hx : x.volume = s.engines[e].volume) :
    SameParts s (s.setEngine e x) := by
  simp [sameParts_iff, setEngine_volumes hx]

theorem deriveIncrements_sameParts (s : State) : SameParts s (deriveIncrements s) := by simp [sameParts_iff]

theorem setNote_sameParts (v : Fin 4) (x : Option Note) (s : State) : SameParts s (setNote v x s) := by
  simp [sameParts_iff]

section
variable (s : State) (sel : SelField) (addr : AddrField) (data : DataField)

theorem execSetWave_same : Answers (SameParts s) (execSetWave sel data s) := by
  unfold execSetWave
  split
  · exact .done (setEngine_sameParts rfl)
  · exact .done (.refl s)

theorem execSetOctave_same : Answers (SameParts s) (execSetOctave sel data s) := by
  unfold execSetOctave
  split
  · refine .done (.trans (setEngine_sameParts ?_) (deriveIncrements_sameParts _))
    rfl
  · exact .done (.refl s)

theorem execSetDetune_same : Answers (SameParts s) (execSetDetune sel data s) := by
  unfold execSetDetune
  split
  · refine .done (.trans (setEngine_sameParts ?_) (deriveIncrements_sameParts _))
    rfl
  · exact .done (.refl s)

theorem execSetMod_same : Answers (SameParts s) (execSetMod sel data s) := by
  unfold execSetMod
  split
  · exact .done (by simp [sameParts_iff])
  · exact .done (.refl s)

theorem execSetMidiSync_same : Answers (SameParts s) (execSetMidiSync data s) :=
  .ite (.done (by simp [sameParts_iff])) (.done ⟨rfl, rfl⟩)

theorem execSeqSelect_same : Answers (SameParts s) (execSeqSelect sel s) := by
  unfold execSeqSelect
  split
  · exact .done ⟨rfl, rfl⟩
  · exact .done (.refl s)

theorem execArpEnable_same : Answers (SameParts s) (execArpEnable data s) := by
  unfold execArpEnable
  split
  · exact .done (by simp [sameParts_iff])
  · exact .done (by simp [sameParts_iff])
  · exact .done (.refl s)
  · exact .done (.refl s)

theorem execKeyOff_same : Answers (SameParts s) (execKeyOff addr s) :=
  .ite (.done (by simp [sameParts_iff]))
    (.ite (.done (by simp [sameParts_iff])) (.done (by simp [sameParts_iff])))

theorem execSetVoiceMode_same : Answers (SameParts s) (execSetVoiceMode data s) :=
  .ite (.done (.refl s)) (.done (by simp [sameParts_iff]))

theorem execSetVoice_same : Answers (SameParts s) (execSetVoice sel data s) := by
  unfold execSetVoice
  split
  · split
    · exact .done (setNote_sameParts ..)
    · exact .done (by simp [sameParts_iff])
  · exact .done (.refl s)

end

/-- The operations that store nothing move no part but through AUDIO_TICK. -/
theorem exec_same {i : Instr} (haudio : i ≠ .audioTick) (hset : setsStored i = false) (hedit : mayEdit i = false)
    (s : State) :
    Answers (SameParts s) (exec i s) := by
  cases i with
  | audioTick => exact absurd rfl haudio
  | reset | clrStatus _ | reportStoreErr => cases hset
  | setVolume _ _ | writeWavetable _ _ _ | setShaper _ _ | setGain _ => cases hset
  | seqWrite _ _ _ _ _ | seqSetParam _ _ _ | seqCopy _ _ | seqClear _ | keyOn _ _ => cases hedit
  | lfoTick => exact .orTableFault fun _ => lfoTickStep_sameParts
  | clockTick => exact .orTableFault fun _ => clockTickStep_sameParts
  | setWave sel data => exact execSetWave_same s sel data
  | setOctave sel data => exact execSetOctave_same s sel data
  | setDetune sel data => exact execSetDetune_same s sel data
  | setMod sel data => exact execSetMod_same s sel data
  | setMidiSync data => exact execSetMidiSync_same s data
  | seqSelect sel => exact execSeqSelect_same s sel
  | arpEnable data => exact execArpEnable_same s data
  | keyOff addr => exact execKeyOff_same s addr
  | setVoiceMode data => exact execSetVoiceMode_same s data
  | setVoice sel data => exact execSetVoice_same s sel data
  | nop => exact .done (.refl s)
  | loadMute _ | setMasterVol _ | setBitmunch _ | outboxDrain => exact .done ⟨rfl, rfl⟩
  | setAttack _ | setDecay _ | setSustain _ | setRelease _ => exact .done ⟨rfl, rfl⟩
  | setLfoShape _ | setLfoRate _ | setLfoRange _ | setLfoRetrig _ | setLfoSync _ => exact .done ⟨rfl, rfl⟩
  | setFilterMode _ | setFilterBypass _ | setPlayMode _ | seqEdit _ _ => exact .done ⟨rfl, rfl⟩
  | setArpStepMode _ | setArpOctRange _ | setArpNoteDur _ | setArpMono _ => exact .done ⟨rfl, rfl⟩
  | setPw _ | setCutoff _ | setResonance _ | setBpm _ | setDivision _ => exact .done (by simp [sameParts_iff])
  | envTick | envTrigger _ | envRelease | lfoSyncReset => exact .done (by simp [sameParts_iff])
  | setBankMode _ | setArpDir _ | setArpSource _ => exact .done (by simp [sameParts_iff])
  | setUnison _ | setUnisonSpread _ | setPortamento _ => exact .done (by simp [sameParts_iff])
  | seqStart | seqStop | clockPoll => exact .done (by simp [sameParts_iff])
  | extClock => exact .ite (.done (by simp [sameParts_iff])) (.done (.refl s))
  | extStart => exact .ite (.done (by simp [sameParts_iff])) (.done (.refl s))
  | extStop => exact .ite (.done (by simp [sameParts_iff])) (.done (.refl s))

/-! ## The operations that edit a sequence -/

/-- `t` differs from `s` in no part but, maybe, the Sequence records. -/
def EditsOnly (s t : State) : Prop :=
  t.audioParts = s.audioParts ∧ t.storedParts = { s.storedParts with mem := { s.mem with seq := t.mem.seq } }

theorem SameParts.mem_eq {s t : State} (h : SameParts s t) : t.mem = s.mem := congrArg StoredParts.mem h.2

theorem SameParts.editsOnly {s t : State} (h : SameParts s t) : EditsOnly s t := by
  refine ⟨h.1, ?_⟩
  rw [h.2, h.mem_eq]
  rfl

theorem SameParts.trans_editsOnly {s t u : State} (h : SameParts s t) (h' : EditsOnly t u) : EditsOnly s u := by
  obtain ⟨haudio, hstored⟩ := h'
  refine ⟨haudio.trans h.1, ?_⟩
  rw [hstored, h.2, h.mem_eq]

theorem EditsOnly.trans_sameParts {s t u : State} (h : EditsOnly s t) (h' : SameParts t u) : EditsOnly s u := by
  obtain ⟨haudio, hstored⟩ := h
  refine ⟨h'.1.trans haudio, ?_⟩
  rw [h'.2, hstored, h'.mem_eq]

theorem setSeq_editsOnly (q : Fin 8) (S : Sequence) (s : State) : EditsOnly s (s.withMem (s.mem.setSeq q S)) :=
  ⟨rfl, rfl⟩

theorem reduceStep_sameParts (q : Fin 8) (s : State) : SameParts s (reduceStep q s) := by
  unfold reduceStep
  split
  · exact ⟨rfl, rfl⟩
  · exact .refl s

theorem seqCapture_editsOnly (s : State) : EditsOnly s (if s.seq.edit then seqCapture s else s) := by
  split
  · exact setSeq_editsOnly ..
  · exact (SameParts.refl s).editsOnly

theorem allocKeyOn_editsOnly (k : Note) (vel : Int) (s : State) : EditsOnly s (allocKeyOn k vel s) := by
  have hplayed : SameParts s (if s.alloc.voiceMode = .paraphonic then paraKeyOn k vel s else monoKeyOn k vel s) := by
    split
    · simp [sameParts_iff]
    · simp [sameParts_iff]
  exact hplayed.trans_editsOnly (seqCapture_editsOnly _)

theorem exec_editsOnly {i : Instr} (hset : setsStored i = false) (hedit : mayEdit i = true) (s : State) :
    Answers (EditsOnly s) (exec i s) := by
  have hnone : Answers (EditsOnly s) (done s) := .done (SameParts.refl s).editsOnly
  cases i with
  | seqWrite sel field sub step data =>
    rw [exec, execSeqWrite]
    split
    · split
      · exact .done (setSeq_editsOnly ..)
      · exact hnone
    · exact hnone
  | seqSetParam sel addr data =>
    rw [exec, execSeqSetParam]
    split
    · split
      · exact .ite (.done ((setSeq_editsOnly ..).trans_sameParts (reduceStep_sameParts ..)))
          (.done (setSeq_editsOnly ..))
      · exact hnone
    · exact hnone
  | seqCopy sel addr =>
    rw [exec, execSeqCopy]
    split
    · next a b _ _ =>
      have hnamed : SameParts s (s.withSeq { s.seq with src := a, dst := b }) := ⟨rfl, rfl⟩
      exact .done (hnamed.trans_editsOnly ((setSeq_editsOnly ..).trans_sameParts (reduceStep_sameParts ..)))
    · exact hnone
  | seqClear sel =>
    rw [exec, execSeqClear]
    split
    · exact .done ((setSeq_editsOnly ..).trans_sameParts (reduceStep_sameParts ..))
    · exact hnone
  | keyOn addr data =>
    have harp (k : Note) (vel : Int) : SameParts s (arpNoteOn k vel s) := by simp [sameParts_iff]
    exact .ite (.done (harp ..).editsOnly) (.done (allocKeyOn_editsOnly ..))
  | reset => cases hset
  | _ => cases hedit

/-! ## The operations that set stored values -/

/-- What the operation `i` leaves where it stores into a lookup table or a user table. -/
def StoresInto (i : Instr) (s t : State) : Prop :=
  t.audioParts = s.audioParts ∧ t.status = s.status ∧ t.mem.seq = s.mem.seq ∧
    ∀ (T : Space) (a : Nat), mayStore i T = false → t.mem.read T a = s.mem.read T a

theorem StoresInto.refl (i : Instr) (s : State) : StoresInto i s s := ⟨rfl, rfl, rfl, fun _ _ _ => rfl⟩

theorem Memory.read_write_of_ne (m : Memory) {T U : Space} (h : U ≠ T) (a b : Nat) (x : Sample) :
    (m.write T a x).read U b = m.read U b := by
  rw [Memory.read, Memory.write, Memory.table_setTable, if_neg h, Memory.read]

/-- The operations that store into a table. -/
def storesTable : Instr → Bool
  | .setVolume _ _ | .writeWavetable _ _ _ | .setShaper _ _ | .setGain _ => true
  | _ => false

theorem exec_storesInto {i : Instr} (htable : storesTable i = true) (s : State) :
    Answers (StoresInto i s) (exec i s) := by
  have hnone (i : Instr) : Answers (StoresInto i s) (done s) := .done (.refl i s)
  cases i with
  | setVolume sel data =>
    rw [exec, execSetVolume]
    split
    · next e _ =>
      refine .done ⟨rfl, rfl, Memory.fill_seq .., fun T a hT => Memory.read_fill_of_ne _ ?_ _ _⟩
      rintro rfl
      cases hT
    · exact hnone _
  | writeWavetable sel addr data =>
    rw [exec, execWriteWavetable]
    split
    · refine .ite (.done ⟨rfl, rfl, Memory.write_seq .., fun T a hT => Memory.read_write_of_ne _ ?_ _ _ _⟩) (hnone _)
      rintro rfl
      cases hT
    · exact hnone _
  | setShaper sel data =>
    rw [exec, execSetShaper]
    split
    · refine .done ⟨rfl, rfl, Memory.fill_seq .., fun T a hT => Memory.read_fill_of_ne _ ?_ _ _⟩
      rintro rfl
      cases hT
    · exact hnone _
  | setGain data =>
    refine .done ⟨rfl, rfl, Memory.fill_seq .., fun T a hT => Memory.read_fill_of_ne _ ?_ _ _⟩
    rintro rfl
    cases hT
  | _ => cases htable

/-- An operation stores into a table, or sets a sticky bit, or is RESET, or sets no stored value. -/
theorem setsStored_cases {P : Instr → Prop} (hreset : P .reset) (hclr : ∀ mask, P (.clrStatus mask))
    (hreport : P .reportStoreErr) (htable : ∀ i, storesTable i = true → P i)
    (hnone : ∀ i, setsStored i = false → P i) (i : Instr) : P i := by
  cases i with
  | reset => exact hreset
  | clrStatus mask => exact hclr mask
  | reportStoreErr => exact hreport
  | setVolume _ _ | writeWavetable _ _ _ | setShaper _ _ | setGain _ => exact htable _ rfl
  | _ => exact hnone _ rfl

theorem exec_audioParts {i : Instr} (haudio : i ≠ .audioTick) (hreset : i ≠ .reset) {s t : State}
    (h : exec i s = .next t) : t.audioParts = s.audioParts := by
  induction i using setsStored_cases with
  | hreset => exact absurd rfl hreset
  | hclr mask => cases h; rfl
  | hreport => cases h; rfl
  | htable i htable => exact (exec_storesInto htable s t h).1
  | hnone i hset =>
    cases hedit : mayEdit i with
    | true => exact (exec_editsOnly hset hedit s t h).1
    | false => exact (exec_same haudio hset hedit s t h).1

/-- Settles O8: they are among the parts that no other operation moves. -/
theorem audioStateMovesOnlyInAudioTick : Obligations.AudioStateMovesOnlyInAudioTick := by
  intro i s t h haudio hreset
  have hparts := exec_audioParts haudio hreset h
  simp only [State.audioParts, AudioParts.mk.injEq] at hparts
  obtain ⟨-, hphases, hregs⟩ := hparts
  refine ⟨fun o => ?_, hregs⟩
  have hphase := congrArg (·[o]) hphases
  simpa using hphase

theorem exec_audioTick_storedParts {s t : State} (h : exec .audioTick s = .next t) : t.storedParts = s.storedParts := by
  have hanswers : Answers (fun t => t.storedParts = s.storedParts) (exec .audioTick s) :=
    .orTableFault fun _ => audioTickStep_storedParts
  exact hanswers t h

theorem exec_storedParts {i : Instr} (hset : setsStored i = false) {s t : State} (h : exec i s = .next t) :
    t.storedParts = { s.storedParts with mem := { s.mem with seq := t.mem.seq } } := by
  cases hedit : mayEdit i with
  | true => exact (exec_editsOnly hset hedit s t h).2
  | false =>
    by_cases haudio : i = .audioTick
    · subst haudio
      have ht := exec_audioTick_storedParts h
      have hmem : t.mem = s.mem := congrArg StoredParts.mem ht
      rw [ht, hmem]
      rfl
    · exact (exec_same haudio hset hedit s t h).editsOnly.2

/-- No operation changes the configuration. -/
theorem exec_params {i : Instr} {s t : State} (h : exec i s = .next t) : t.params = s.params := by
  by_cases hreset : i = .reset
  · subst hreset
    rw [exec_reset] at h
    cases h
    rfl
  · by_cases haudio : i = .audioTick
    · subst haudio
      exact congrArg StoredParts.params (exec_storedParts rfl h)
    · exact congrArg AudioParts.params (exec_audioParts haudio hreset h)

/-- Settles O9: the operations that set stored values set a parameter or a table, or the sticky bit that is theirs. -/
theorem stickyBitsChangeOnlyByTheirOperations : Obligations.StickyBitsChangeOnlyByTheirOperations := by
  intro i s t h hclr hreset
  induction i using setsStored_cases with
  | hreset => exact absurd rfl hreset
  | hclr mask => exact absurd rfl (hclr mask)
  | hreport => cases h; exact ⟨rfl, fun hne => absurd rfl hne⟩
  | htable i htable =>
    obtain ⟨-, hstatus, -⟩ := exec_storesInto htable s t h
    rw [hstatus]
    exact ⟨rfl, fun _ => rfl⟩
  | hnone i hset =>
    have hstatus : t.status = s.status := congrArg StoredParts.status (exec_storedParts hset h)
    rw [hstatus]
    exact ⟨rfl, fun _ => rfl⟩

/-! ## The tables -/

theorem storedParts_read {s t : State}
    (h : t.storedParts = { s.storedParts with mem := { s.mem with seq := t.mem.seq } }) (T : Space) (a : Nat) :
    t.mem.read T a = s.mem.read T a := by
  have hmem : t.mem = { s.mem with seq := t.mem.seq } := congrArg StoredParts.mem h
  rw [hmem]
  cases T <;> rfl

theorem exec_seq_of_not_mayEdit {i : Instr} (hset : setsStored i = false) (hedit : mayEdit i = false) {s t : State}
    (h : exec i s = .next t) : t.mem.seq = s.mem.seq := by
  by_cases haudio : i = .audioTick
  · subst haudio
    exact congrArg (fun p => p.mem.seq) (exec_audioTick_storedParts h)
  · exact congrArg Memory.seq (exec_same haudio hset hedit s t h).mem_eq

/-- Settles O7: an operation that stores into a table writes no other kind of table and no record, an editing operation
writes no table. -/
theorem tablesChangeOnlyByTheirOperations : Obligations.TablesChangeOnlyByTheirOperations := by
  intro i s t h
  induction i using setsStored_cases with
  | hreset => exact ⟨nofun, nofun⟩
  | hclr mask => cases h; exact ⟨fun _ _ _ => rfl, fun _ => rfl⟩
  | hreport => cases h; exact ⟨fun _ _ _ => rfl, fun _ => rfl⟩
  | htable i htable =>
    obtain ⟨-, -, hseq, hread⟩ := exec_storesInto htable s t h
    exact ⟨hread, fun _ => hseq⟩
  | hnone i hset =>
    exact ⟨fun T a _ => storedParts_read (exec_storedParts hset h) T a,
      fun hedit => exec_seq_of_not_mayEdit hset hedit h⟩

/-! ## The lookup tables -/

theorem TablesMatch.of_storedParts {s t : State} (hs : TablesMatch s)
    (h : t.storedParts = { s.storedParts with mem := { s.mem with seq := t.mem.seq } }) : TablesMatch t := by
  have hparams : t.params = s.params := congrArg StoredParts.params h
  have hshape : t.shape = s.shape := congrArg StoredParts.shape h
  have hvolume (e : Fin 2) : t.engines[e].volume = s.engines[e].volume := by
    have hmap : t.engines.map Engine.volume = s.engines.map Engine.volume := congrArg StoredParts.volumes h
    simpa using congrArg (·[e]) hmap
  constructor
  · intro e x hx
    rw [storedParts_read h, hvolume]
    exact hs.vol e x hx
  · intro x hx
    rw [storedParts_read h, hparams, hshape]
    exact hs.shaper x hx
  · intro x hx
    rw [storedParts_read h, hparams, hshape]
    exact hs.gain x hx

/-- SET_VOLUME rebuilds the table of the engine whose volume it sets; the other engine keeps both. -/
theorem TablesMatch.execSetVolume {s : State} (hs : TablesMatch s) (sel : SelField) (data : DataField) :
    Answers TablesMatch (execSetVolume sel data s) := by
  unfold Machine.execSetVolume
  split
  · next e _ =>
    refine .done ⟨fun e' x hx => ?_, fun x hx => ?_, fun x hx => ?_⟩
    · refine (Memory.read_fill s.mem (.vol e) (.vol e') _ hx).trans ?_
      simp only [State.setEngine, State.withMem_engines, State.withEngines_engines, Fin.getElem_fin, Vector.getElem_set,
        Space.vol.injEq, Fin.ext_iff, eq_comm (a := e'.val)]
      split
      · rfl
      · exact hs.vol e' x hx
    · exact (Memory.read_fill_of_ne s.mem (by nofun) _ x).trans (hs.shaper x hx)
    · exact (Memory.read_fill_of_ne s.mem (by nofun) _ x).trans (hs.gain x hx)
  · exact .done hs

theorem TablesMatch.execWriteWavetable {s : State} (hs : TablesMatch s) (sel : SelField) (addr : AddrField)
    (data : DataField) : Answers TablesMatch (execWriteWavetable sel addr data s) := by
  unfold Machine.execWriteWavetable
  split
  · refine .ite (.done ⟨fun e x hx => ?_, fun x hx => ?_, fun x hx => ?_⟩) (.done hs)
    · exact (Memory.read_write_of_ne s.mem (by nofun) _ x _).trans (hs.vol e x hx)
    · exact (Memory.read_write_of_ne s.mem (by nofun) _ x _).trans (hs.shaper x hx)
    · exact (Memory.read_write_of_ne s.mem (by nofun) _ x _).trans (hs.gain x hx)
  · exact .done hs

theorem TablesMatch.execSetShaper {s : State} (hs : TablesMatch s) (sel : SelField) (data : DataField) :
    Answers TablesMatch (execSetShaper sel data s) := by
  unfold Machine.execSetShaper
  split
  · refine .done ⟨fun e x hx => ?_, fun x hx => ?_, fun x hx => ?_⟩
    · exact (Memory.read_fill_of_ne s.mem (by nofun) _ x).trans (hs.vol e x hx)
    · exact (Memory.read_fill s.mem .shaper .shaper _ hx).trans (if_pos rfl)
    · exact (Memory.read_fill_of_ne s.mem (by nofun) _ x).trans (hs.gain x hx)
  · exact .done hs

theorem TablesMatch.execSetGain {s : State} (hs : TablesMatch s) (data : DataField) :
    Answers TablesMatch (execSetGain data s) := by
  refine .done ⟨fun e x hx => ?_, fun x hx => ?_, fun x hx => ?_⟩
  · exact (Memory.read_fill_of_ne s.mem (by nofun) _ x).trans (hs.vol e x hx)
  · exact (Memory.read_fill_of_ne s.mem (by nofun) _ x).trans (hs.shaper x hx)
  · exact (Memory.read_fill s.mem .gain .gain _ hx).trans (if_pos rfl)

theorem TablesMatch.exec {s : State} (hs : TablesMatch s) (i : Instr) : Answers TablesMatch (exec i s) := by
  induction i using setsStored_cases with
  | hreset =>
    obtain ⟨hvol, hshaper, hgain⟩ := resetWith_tablesMatch s.params
    exact .done ⟨hvol, hshaper, hgain⟩
  | hclr mask => exact .done ⟨hs.vol, hs.shaper, hs.gain⟩
  | hreport => exact .done ⟨hs.vol, hs.shaper, hs.gain⟩
  | htable i htable =>
    cases i with
    | setVolume sel data => exact hs.execSetVolume sel data
    | writeWavetable sel addr data => exact hs.execWriteWavetable sel addr data
    | setShaper sel data => exact hs.execSetShaper sel data
    | setGain data => exact hs.execSetGain data
    | _ => cases htable
  | hnone i hset => exact fun t h => hs.of_storedParts (exec_storedParts hset h)

/-! ## The step -/

theorem accept_sameParts (s : State) : SameParts s (accept s) := by
  have key (events : List PortEvent) (x : State) : SameParts x (events.foldl acceptEvent x) := by
    induction events generalizing x with
    | nil => exact .refl x
    | cons e events ih => exact .trans ⟨rfl, rfl⟩ (ih _)
  unfold accept
  split
  · exact .trans ⟨rfl, rfl⟩ (key ..)
  · exact .refl s

theorem arbitrate_sameParts {s t : State} {w : CmdWord} (h : arbitrate s = some (w, t)) : SameParts s t := by
  unfold arbitrate at h
  split at h
  · cases h; exact ⟨rfl, rfl⟩
  · split at h
    · cases h; exact ⟨rfl, rfl⟩
    · split at h
      · cases h; exact ⟨rfl, rfl⟩
      · cases h

/-- A step is the operation of a decoded word, or the answer to an undefined code, or the passing of time, in a state
that has the same parts. -/
theorem step_cases {P : State → Prop} {s : State} (hexec : ∀ i m, SameParts s m → Answers P (exec i m))
    (hillegal : ∀ m, SameParts s m → P (m.withStatus { m.status with illegalCmd := true }))
    (hidle : ∀ m, SameParts s m → P m) : Answers P (step s) := by
  have haccept := accept_sameParts s
  cases ha : arbitrate (accept s) with
  | none =>
    rw [step_of_idle ha]
    exact .done (hidle _ (haccept.trans ⟨rfl, rfl⟩))
  | some r =>
    obtain ⟨w, m⟩ := r
    have hm := haccept.trans (arbitrate_sameParts ha)
    rw [step_of_arbitrate ha]
    cases hd : decode w with
    | ok i => rw [runWord_of_decode hd]; exact hexec i m hm
    | error e => rw [runWord_of_decode_error hd]; exact .done (hillegal m hm)

/-- Settles O6: an operation that sets a parameter of a table rebuilds it. -/
theorem stepKeepsTablesMatched : Obligations.StepKeepsTablesMatched := by
  intro s t hs h
  have hsame {m : State} (hm : SameParts s m) : TablesMatch m := hs.of_storedParts hm.editsOnly.2
  refine step_cases (fun i m hm => (hsame hm).exec i) (fun m hm => ?_) (fun m hm => hsame hm) t h
  obtain ⟨hvol, hshaper, hgain⟩ := hsame hm
  exact ⟨hvol, hshaper, hgain⟩

/-- A step leaves the configuration. -/
theorem step_params {s t : State} (h : step s = .next t) : t.params = s.params := by
  have hsame {m : State} (hm : SameParts s m) : m.params = s.params := congrArg AudioParts.params hm.1
  exact step_cases (P := fun t => t.params = s.params) (fun i m hm u hu => (exec_params hu).trans (hsame hm))
    (fun m hm => hsame (m := m) hm) (fun _ hm => hsame hm) t h

end Sys2Proof.Machine
end

section
/-! PROOFS. Every operation keeps a legal state legal and answers a next state (10_state R55, 60_exceptions R410, R413):
the shared operations do by the laws of `Inv`, so what is left for each operation is the range of what it stores. -/

namespace Sys2Proof.Machine

/-- An operation that answers a legal state. -/
abbrev AnswersLegal (r : Result) : Prop := ∃ t, r = .next t ∧ Inv t

theorem AnswersLegal.of_inv {t : State} (h : Inv t) : AnswersLegal (done t) := ⟨t, rfl, h⟩

/-- An operation that reads tables by an index of its own. -/
theorem AnswersLegal.orTableFault {o : Option State} (h : ∃ t, o = some t ∧ Inv t) : AnswersLegal (orTableFault o) := by
  obtain ⟨t, rfl, ht⟩ := h
  exact .of_inv ht

theorem AnswersLegal.ite {c : Prop} [Decidable c] {a b : Result} (ha : AnswersLegal a) (hb : AnswersLegal b) :
    AnswersLegal (if c then a else b) := by
  split
  · exact ha
  · exact hb

/-- One entry of a vector replaced by one in range. -/
theorem forall_getElem_set {α : Type} {n : Nat} (P : α → Prop) {x : Vector α n} (hx : ∀ i : Fin n, P x[i]) (j : Fin n)
    {y : α} (hy : P y) (i : Fin n) : P (x.set j y)[i] := by
  simp only [Fin.getElem_fin, Vector.getElem_set]
  split
  · exact hy
  · exact hx i

section
variable {s : State} (h : Inv s)
include h

/-! ## The oscillators' and the allocator's settings -/

theorem Inv.setEngine {e : Fin 2} {x : Engine} (hx : EngineOk s.params x) :
    Inv (s.withEngines (s.engines.set e x)) :=
  h.withEngines (forall_getElem_set (EngineOk s.params) h.engines e hx)

theorem Inv.withMatrixSet (k : Fin 17) {x : Int} (hx : IsGain x) : Inv (s.withMatrix (s.matrix.set k x)) :=
  h.withMatrix (forall_getElem_set IsGain h.matrix k hx)

/-! ## The external clock -/

theorem Inv.withMidiSync (out obey : Bool) :
    Inv (s.withClock { s.clock with
      midiClockOut := out, extSyncEnable := obey, outClockPhase := if out then s.clock.outClockPhase else 0 }) := by
  obtain ⟨hpulse, heighth, hdiv, hswing, hbpm, hperiod, hphase, hsel⟩ := h.clock
  refine h.withClock ⟨hpulse, heighth, hdiv, hswing, hbpm, hperiod, ?_, hsel⟩ rfl
  show (if out then s.clock.outClockPhase else 0) < 24
  split
  · exact hphase
  · decide

/-- EXT_START re-zeroes the pulse and the two phases of the clocks. -/
theorem Inv.zeroPhases :
    Inv ((s.withClock { s.clock with pulse := 0, outClockPhase := 0 }).withExt { s.ext with extPulse := 0 }) := by
  obtain ⟨-, heighth, hdiv, hswing, hbpm, hperiod, -, hsel⟩ := h.clock
  obtain ⟨-, hext⟩ := h.ext
  exact (h.withClock (x := { s.clock with pulse := 0, outClockPhase := 0 })
    ⟨measure_pos h, heighth, hdiv, hswing, hbpm, hperiod, Nat.zero_lt_succ _, hsel⟩ rfl).withExt ⟨Nat.zero_le _, hext⟩

/-! ## The sequences (47_sequencer R330 to R333) -/

/-- A SEQ_WRITE stores a value in range and leaves the length. -/
theorem writeField_ok {S S' : Sequence} (hS : SequenceOk s.params S) {field sub : BitVec 4} {t : Fin 16}
    {data : DataField} (hw : writeField s.params S field sub t data = some S') :
    SequenceOk s.params S' ∧ S'.patternLength = S.patternLength := by
  obtain ⟨hnotes, hvel, hnum, hval, hrest⟩ := hS
  unfold writeField at hw
  split at hw
  case h_1 =>
    obtain ⟨u, -, rfl⟩ := Option.map_eq_some_iff.1 hw
    have hrow := forall_getElem_set (OptNote s.params) (hnotes u) t (optNoteOperand_ok h.params data)
    exact ⟨⟨forall_getElem_set (fun row => ∀ t : Fin 16, OptNote s.params row[t]) hnotes u hrow, hvel, hnum, hval,
      hrest⟩, rfl⟩
  case h_2 => cases hw; exact ⟨⟨hnotes, hvel, hnum, hval, hrest⟩, rfl⟩
  case h_3 => cases hw; exact ⟨⟨hnotes, hvel, hnum, hval, hrest⟩, rfl⟩
  case h_4 =>
    cases hw
    exact ⟨⟨hnotes, forall_getElem_set IsVel hvel t (velOperand_isVel data), hnum, hval, hrest⟩, rfl⟩
  case h_5 =>
    obtain ⟨u, -, rfl⟩ := Option.map_eq_some_iff.1 hw
    have hcount := (countOperand_bounds (by decide : 0 ≤ 127) data).2
    exact ⟨⟨hnotes, hvel, forall_getElem_set (· ≤ 127) hnum u hcount, hval, hrest⟩, rfl⟩
  case h_6 =>
    obtain ⟨u, -, rfl⟩ := Option.map_eq_some_iff.1 hw
    have hcount := (countOperand_bounds (by decide : 0 ≤ 127) data).2
    have hrow := forall_getElem_set (· ≤ 127) (hval u) t hcount
    exact ⟨⟨hnotes, hvel, hnum, forall_getElem_set (fun row => ∀ t : Fin 16, row[t] ≤ 127) hval u hrow, hrest⟩, rfl⟩
  case h_7 => cases hw

omit h in
/-- A SEQ_SET_PARAM stores a value in range; only parameter 2 is the length. -/
theorem writeParam_ok {S S' : Sequence} (hS : SequenceOk s.params S) {k : Nat} {data : DataField}
    (hw : writeParam s.params S k data = some S') :
    SequenceOk s.params S' ∧ (k ≠ 2 → S'.patternLength = S.patternLength) := by
  obtain ⟨hnotes, hvel, hnum, hval, hdur, hdiv, hlen, htr, hswing, hbpm⟩ := hS
  unfold writeParam at hw
  split at hw
  all_goals cases hw
  · exact ⟨⟨hnotes, hvel, hnum, hval, (countOperand_bounds (Nat.zero_le _) data).2, hdiv, hlen, htr, hswing, hbpm⟩,
      fun _ => rfl⟩
  · exact ⟨⟨hnotes, hvel, hnum, hval, hdur, (countOperand_bounds (Nat.zero_le _) data).2, hlen, htr, hswing, hbpm⟩,
      fun _ => rfl⟩
  · exact ⟨⟨hnotes, hvel, hnum, hval, hdur, hdiv, countOperand_bounds (by decide) data, htr, hswing, hbpm⟩,
      fun hne => absurd rfl hne⟩
  · exact ⟨⟨hnotes, hvel, hnum, hval, hdur, hdiv, hlen, sOperand_bounds (by decide) data, hswing, hbpm⟩, fun _ => rfl⟩
  · exact ⟨⟨hnotes, hvel, hnum, hval, hdur, hdiv, hlen, htr, (countOperand_bounds (Nat.zero_le _) data).2, hbpm⟩,
      fun _ => rfl⟩
  · exact ⟨⟨hnotes, hvel, hnum, hval, hdur, hdiv, hlen, htr, hswing, countOperand_bounds (by decide) data⟩,
      fun _ => rfl⟩

/-- A legal record of any length, once the step of the current sequence is brought inside it. -/
theorem Inv.reduceStep_setSeq (q : Fin 8) {S : Sequence} (hS : SequenceOk s.params S) :
    Inv (reduceStep q (s.withMem (s.mem.setSeq q S))) := by
  obtain ⟨hstep, hrest⟩ := h.seq
  have hlen : 0 < S.patternLength := hS.2.2.2.2.2.2.1.1
  have hmem : MemOk s.params (s.mem.setSeq q S) :=
    ⟨(Memory.setSeq_wf s.mem q S).trans h.mem.1, forall_getElem_set (SequenceOk s.params) h.mem.2 q hS⟩
  have hget : (s.mem.seq.set q S)[s.seq.cur] = if q = s.seq.cur then S else s.mem.seq[s.seq.cur] := by
    simp only [Fin.getElem_fin, Vector.getElem_set, Fin.ext_iff]
  unfold Machine.reduceStep
  split
  · next hcur =>
    have hq : q = s.seq.cur := hcur
    have hsame : (s.mem.seq.set q S)[q] = S := Vector.getElem_set_self _
    have hinside : s.seq.step % ((s.mem.seq.set q S)[q]).patternLength <
        ((s.mem.seq.set q S)[s.seq.cur]).patternLength := by
      rw [hget, if_pos hq, hsame]
      exact Nat.mod_lt _ hlen
    exact { h with mem := hmem, seq := ⟨hinside, hrest⟩ }
  · next hcur =>
    have hq : q ≠ s.seq.cur := hcur
    have hsame : s.seq.step < ((s.mem.seq.set q S)[s.seq.cur]).patternLength := by
      rw [hget, if_neg hq]
      exact hstep
    exact { h with mem := hmem, seq := ⟨hsame, hrest⟩ }

/-! ## The operations of the mixer, the oscillators and the tables -/

theorem Inv.execLoadMute (data : DataField) : AnswersLegal (execLoadMute data s) := .of_inv (h.withMixer h.mixer)

theorem Inv.execSetMasterVol (data : DataField) : AnswersLegal (execSetMasterVol data s) := by
  obtain ⟨hmunch, hramp, -⟩ := h.mixer
  exact .of_inv (h.withMixer ⟨hmunch, hramp, uOperand_isGain data⟩)

theorem Inv.execSetBitmunch (data : DataField) : AnswersLegal (execSetBitmunch data s) := by
  obtain ⟨-, hrest⟩ := h.mixer
  exact .of_inv (h.withMixer ⟨(countOperand_bounds (Nat.zero_le _) data).2, hrest⟩)

theorem Inv.execOutboxDrain : AnswersLegal (execOutboxDrain s) := by
  obtain ⟨-, -, -, -, -, hnotes⟩ := h.outbox
  have hports := h.withPorts (x := { s.ports with rsp := response s, rspValid := true }) h.ports
  have hempty := hports.withOutbox (x := s.outbox.drained)
    ⟨nofun, OptNote.none, nofun, nofun, Nat.zero_le _, hnotes⟩
  exact .of_inv (hempty.withUi h.ui)

theorem Inv.execSetWave (sel : SelField) (data : DataField) : AnswersLegal (execSetWave sel data s) := by
  unfold Machine.execSetWave
  split
  · next e _ => exact .of_inv (h.setEngine (h.engines e))
  · exact .of_inv h

theorem Inv.execSetOctave (sel : SelField) (data : DataField) : AnswersLegal (execSetOctave sel data s) := by
  have hoct : s.params.octMin ≤ s.params.octMax := h.params.oct.1.trans h.params.oct.2
  unfold Machine.execSetOctave
  split
  · next e _ =>
    obtain ⟨-, hrest⟩ := h.engines e
    have hset := h.setEngine (e := e)
      (x := { s.engines[e] with octave := sOperand s.params.octMin s.params.octMax data })
      ⟨sOperand_bounds hoct data, hrest⟩
    exact .of_inv hset.deriveIncrements
  · exact .of_inv h

theorem Inv.execSetDetune (sel : SelField) (data : DataField) : AnswersLegal (execSetDetune sel data s) := by
  have hrange : -s.params.detuneMax ≤ s.params.detuneMax := neg_le_self h.params.detune
  unfold Machine.execSetDetune
  split
  · next e _ =>
    obtain ⟨hoct, hvol, -⟩ := h.engines e
    have hset := h.setEngine (e := e)
      (x := { s.engines[e] with detune := sOperand (-s.params.detuneMax) s.params.detuneMax data })
      ⟨hoct, hvol, sOperand_bounds hrange data⟩
    exact .of_inv hset.deriveIncrements
  · exact .of_inv h

theorem Inv.execSetVolume (sel : SelField) (data : DataField) : AnswersLegal (execSetVolume sel data s) := by
  unfold Machine.execSetVolume
  split
  · next e _ =>
    obtain ⟨hoct, -, hdetune⟩ := h.engines e
    have hset := h.setEngine (e := e) (x := { s.engines[e] with volume := uOperand 0 Config.gainMax data })
      ⟨hoct, uOperand_isGain data, hdetune⟩
    exact .of_inv (hset.withMem (Memory.fill_wf h.mem.1 _ _) (Memory.fill_seq _ _ _))
  · exact .of_inv h

theorem Inv.execSetPw (data : DataField) : AnswersLegal (execSetPw data s) := by
  obtain ⟨-, hrest⟩ := h.pw
  have hset := h.withPw (x := { s.pw with knob := uOperand 0 Config.gainMax data }) ⟨uOperand_isGain data, hrest⟩
  exact .of_inv hset.updatePulseWidth

theorem Inv.execWriteWavetable (sel : SelField) (addr : AddrField) (data : DataField) :
    AnswersLegal (execWriteWavetable sel addr data s) := by
  unfold Machine.execWriteWavetable
  split
  · next u _ =>
    split
    · next haddr => exact .of_inv (h.withMem (Memory.write_wf h.mem.1 haddr _) (Memory.write_seq _ _ _ _))
    · exact .of_inv h
  · exact .of_inv h

theorem Inv.execSetShaper (sel : SelField) (data : DataField) : AnswersLegal (execSetShaper sel data s) := by
  obtain ⟨-, -, hgain⟩ := h.shape
  unfold Machine.execSetShaper
  split
  · next t ht =>
    have htype : t < s.params.nShaperType := by
      unfold shaperTypeOperand at ht
      split at ht
      · next hlt => cases ht; exact hlt
      · cases ht
    have hset := h.withShape (x := { s.shape with shaperType := t, shaperAmount := uOperand 0 Config.gainMax data })
      ⟨htype, uOperand_isGain data, hgain⟩
    exact .of_inv (hset.withMem (Memory.fill_wf h.mem.1 _ _) (Memory.fill_seq _ _ _))
  · exact .of_inv h

theorem Inv.execSetGain (data : DataField) : AnswersLegal (execSetGain data s) := by
  obtain ⟨htype, hamount, -⟩ := h.shape
  have hset := h.withShape (x := { s.shape with gainAmount := uOperand 0 Config.gainMax data })
    ⟨htype, hamount, uOperand_isGain data⟩
  exact .of_inv (hset.withMem (Memory.fill_wf h.mem.1 _ _) (Memory.fill_seq _ _ _))

/-! ## The operations of the envelope, the LFO and the filter -/

theorem Inv.execSetAttack (data : DataField) : AnswersLegal (execSetAttack data s) := by
  obtain ⟨hamp, hstart, hvel, hsus, -, hrest⟩ := h.env
  exact .of_inv (h.withEnv ⟨hamp, hstart, hvel, hsus, durationOperand_lt data, hrest⟩)

theorem Inv.execSetDecay (data : DataField) : AnswersLegal (execSetDecay data s) := by
  obtain ⟨hamp, hstart, hvel, hsus, hatt, -, hrel⟩ := h.env
  exact .of_inv (h.withEnv ⟨hamp, hstart, hvel, hsus, hatt, durationOperand_lt data, hrel⟩)

theorem Inv.execSetSustain (data : DataField) : AnswersLegal (execSetSustain data s) := by
  obtain ⟨hamp, hstart, hvel, -, hrest⟩ := h.env
  exact .of_inv (h.withEnv ⟨hamp, hstart, hvel, uOperand_isGain data, hrest⟩)

theorem Inv.execSetRelease (data : DataField) : AnswersLegal (execSetRelease data s) := by
  obtain ⟨hamp, hstart, hvel, hsus, hatt, hdec, -⟩ := h.env
  exact .of_inv (h.withEnv ⟨hamp, hstart, hvel, hsus, hatt, hdec, durationOperand_lt data⟩)

theorem Inv.execEnvTrigger (data : DataField) : AnswersLegal (execEnvTrigger data s) :=
  .of_inv (h.envTriggerWith (velOperand_isVel data))

theorem Inv.execSetLfoRate (data : DataField) : AnswersLegal (execSetLfoRate data s) := by
  obtain ⟨hindex, hcounter, hval, heighth, -, hrange⟩ := h.lfo
  exact .of_inv (h.withLfo ⟨hindex, hcounter, hval, heighth, uOperand_bounds h.params.ticks.2.1 data, hrange⟩)

theorem Inv.execSetLfoRange (data : DataField) : AnswersLegal (execSetLfoRange data s) := by
  obtain ⟨hindex, hcounter, hval, heighth, hrate, -⟩ := h.lfo
  exact .of_inv (h.withLfo ⟨hindex, hcounter, hval, heighth, hrate, (countOperand_bounds (Nat.zero_le _) data).2⟩)

theorem Inv.execSetLfoSync (data : DataField) : AnswersLegal (execSetLfoSync data s) := by
  obtain ⟨hindex, hcounter, hval, -, hrest⟩ := h.lfo
  exact .of_inv (h.withLfo ⟨hindex, hcounter, hval, Nat.zero_le _, hrest⟩)

theorem Inv.execSetMod (sel : SelField) (data : DataField) : AnswersLegal (execSetMod sel data s) := by
  unfold Machine.execSetMod
  split
  · next k _ => exact .of_inv (h.withMatrixSet k (uOperand_isGain data)).lfoOutputs
  · exact .of_inv h

theorem Inv.execSetCutoff (data : DataField) : AnswersLegal (execSetCutoff data s) := by
  obtain ⟨hlp0, hlp1, heff, hfb, -, hres⟩ := h.filter
  have hset := h.withFilter (x := { s.filter with cutoff := uOperand 0 s.params.coefMax data })
    ⟨hlp0, hlp1, heff, hfb, uOperand_bounds (coefMax_nonneg _) data, hres⟩
  exact .of_inv hset.updateFilterCoef

theorem Inv.execSetResonance (data : DataField) : AnswersLegal (execSetResonance data s) := by
  obtain ⟨hlp0, hlp1, heff, hfb, hcut, -⟩ := h.filter
  have hset := h.withFilter (x := { s.filter with resonance := uOperand 0 s.params.coefMax data })
    ⟨hlp0, hlp1, heff, hfb, hcut, uOperand_bounds (coefMax_nonneg _) data⟩
  exact .of_inv hset.updateFilterCoef

/-! ## The operations of the clock and the sequencer -/

theorem Inv.execSetBpm (data : DataField) : AnswersLegal (execSetBpm data s) :=
  .of_inv (h.setTempo (countOperand_bounds (by decide) data))

theorem Inv.execSetDivision (data : DataField) : AnswersLegal (execSetDivision data s) := by
  obtain ⟨hpulse, heighth, hdiv, hswing, hbpm, hperiod, hphase, -⟩ := h.clock
  have hsel := (countOperand_bounds (Nat.zero_le 3) data).2
  have hset := h.withClock (x := { s.clock with divSel := countOperand 0 3 data })
    ⟨hpulse, heighth, hdiv, hswing, hbpm, hperiod, hphase, hsel⟩ rfl
  exact .of_inv (hset.setDiv _)

theorem Inv.execExtStart : AnswersLegal (execExtStart s) := (AnswersLegal.of_inv h.zeroPhases.startSeq).ite (.of_inv h)

theorem Inv.execSetMidiSync (data : DataField) : AnswersLegal (execSetMidiSync data s) := by
  have hset := h.withMidiSync (data.getLsbD 0) (data.getLsbD 1)
  exact (AnswersLegal.of_inv hset.extLost).ite (.of_inv hset)

theorem Inv.execSeqSelect (sel : SelField) : AnswersLegal (execSeqSelect sel s) := by
  unfold Machine.execSeqSelect
  split
  · next q _ => exact .of_inv (h.withSel q)
  · exact .of_inv h

theorem Inv.execSetPlayMode (data : DataField) : AnswersLegal (execSetPlayMode data s) := by
  obtain ⟨hstep, hpend, -⟩ := h.seq
  exact .of_inv (h.withSeq ⟨hstep, hpend, .inl rfl, (by decide : (1 : Int) ≤ 1 ∧ (1 : Int) ≤ 15)⟩)

theorem Inv.execSetBankMode (data : DataField) : AnswersLegal (execSetBankMode data s) :=
  .of_inv (h.withSeq (x := { s.seq with bankMode := bankModeOperand data }) h.seq).cueNextSeq

theorem Inv.execSeqWrite (sel : SelField) (field sub step : BitVec 4) (data : DataField) :
    AnswersLegal (execSeqWrite sel field sub step data s) := by
  unfold Machine.execSeqWrite
  split
  · next q _ =>
    split
    · next S hS =>
      obtain ⟨hok, hlen⟩ := writeField_ok h (h.mem.2 q) hS
      exact .of_inv (h.setSeq_sameLength hok hlen)
    · exact .of_inv h
  · exact .of_inv h

theorem Inv.execSeqSetParam (sel : SelField) (addr : AddrField) (data : DataField) :
    AnswersLegal (execSeqSetParam sel addr data s) := by
  unfold Machine.execSeqSetParam
  split
  · next q _ =>
    split
    · next S hS =>
      obtain ⟨hok, hlen⟩ := writeParam_ok (h.mem.2 q) hS
      dsimp only
      split
      · exact .of_inv (h.reduceStep_setSeq q hok)
      · next hne => exact .of_inv (h.setSeq_sameLength hok (hlen hne))
    · exact .of_inv h
  · exact .of_inv h

theorem Inv.execSeqCopy (sel : SelField) (addr : AddrField) : AnswersLegal (execSeqCopy sel addr s) := by
  unfold Machine.execSeqCopy
  split
  · next a b _ _ =>
    have hnamed := h.withSeq (x := { s.seq with src := a, dst := b }) h.seq
    exact .of_inv (hnamed.reduceStep_setSeq b (h.mem.2 a))
  · exact .of_inv h

theorem Inv.execSeqClear (sel : SelField) : AnswersLegal (execSeqClear sel s) := by
  unfold Machine.execSeqClear
  split
  · next q _ => exact .of_inv (h.reduceStep_setSeq q Sequence.cleared_ok)
  · exact .of_inv h

/-! ## The operations of the arpeggiator and the allocator -/

theorem Inv.execArpEnable (data : DataField) : AnswersLegal (execArpEnable data s) := by
  unfold Machine.execArpEnable
  split
  · have hclear := h.allocReleaseAll.arpClear
    exact .of_inv (hclear.withArp hclear.arp)
  · exact .of_inv (h.withArp (x := { s.arp with on := false }) h.arp).arpReleasePending.arpClear
  · exact .of_inv h
  · exact .of_inv h

theorem Inv.execSetArpDir (data : DataField) : AnswersLegal (execSetArpDir data s) :=
  .of_inv (h.withArp (x := { s.arp with dir := arpDirOperand data }) h.arp).arpSort

theorem Inv.execSetArpOctRange (data : DataField) : AnswersLegal (execSetArpOctRange data s) := by
  obtain ⟨hraw, hsorted, hlen, hpos, -, hpend, hnote, hvel, -, hdur⟩ := h.arp
  have hrange := (countOperand_bounds (Nat.zero_le 3) data).2
  have hoct := Nat.lt_succ_iff.1 (Nat.mod_lt s.arp.oct (countOperand 0 3 data).succ_pos)
  exact .of_inv (h.withArp ⟨hraw, hsorted, hlen, hpos, hoct, hpend, hnote, hvel, hrange, hdur⟩)

theorem Inv.execSetArpNoteDur (data : DataField) : AnswersLegal (execSetArpNoteDur data s) := by
  obtain ⟨hraw, hsorted, hlen, hpos, hoct, hpend, hnote, hvel, hrange, -⟩ := h.arp
  exact .of_inv (h.withArp
    ⟨hraw, hsorted, hlen, hpos, hoct, hpend, hnote, hvel, hrange, countOperand_bounds (by decide) data⟩)

theorem Inv.execSetArpSource (data : DataField) : AnswersLegal (execSetArpSource data s) :=
  .of_inv (h.withArp (x := { s.arp with source := arpSourceOperand data }) h.arp).arpSort

theorem Inv.execKeyOn (addr : AddrField) (data : DataField) : AnswersLegal (execKeyOn addr data s) := by
  have hnote := noteOperand_isNote h.params addr
  have hvel := velOperand_isVel data
  exact (AnswersLegal.of_inv (h.arpNoteOn hnote hvel)).ite (.of_inv (h.allocKeyOn hnote hvel))

theorem Inv.execKeyOff (addr : AddrField) : AnswersLegal (execKeyOff addr s) :=
  (AnswersLegal.of_inv (h.arpNoteOff _)).ite
    ((AnswersLegal.of_inv (h.paraKeyOff _)).ite (.of_inv (h.monoKeyOff _)))

theorem Inv.execSetVoiceMode (data : DataField) : AnswersLegal (execSetVoiceMode data s) := by
  have hfreed := h.allocReleaseAll
  have hmode := hfreed.withAlloc (x := { (Machine.allocReleaseAll s).alloc with voiceMode := voiceModeOperand data })
    hfreed.alloc
  exact (AnswersLegal.of_inv h).ite (.of_inv hmode.updateUnison.deriveIncrements)

theorem Inv.execSetUnison (data : DataField) : AnswersLegal (execSetUnison data s) := by
  obtain ⟨-, hrest⟩ := h.alloc
  have hset := h.withAlloc (x := { s.alloc with unisonCount := countOperand 0 3 data })
    ⟨(countOperand_bounds (Nat.zero_le 3) data).2, hrest⟩
  exact .of_inv hset.updateUnison.deriveIncrements

theorem Inv.execSetUnisonSpread (data : DataField) : AnswersLegal (execSetUnisonSpread data s) := by
  obtain ⟨hcount, -, hrest⟩ := h.alloc
  have hset := h.withAlloc (x := { s.alloc with unisonSpread := uOperand 0 s.params.spreadMax data })
    ⟨hcount, uOperand_bounds h.params.spread data, hrest⟩
  exact .of_inv hset.updateUnison.deriveIncrements

theorem Inv.execSetPortamento (data : DataField) : AnswersLegal (execSetPortamento data s) := by
  obtain ⟨hcount, hspread, hoff, -, hheld⟩ := h.alloc
  have hset := h.withAlloc (x := { s.alloc with portaTime := durationOperand data })
    ⟨hcount, hspread, hoff, durationOperand_lt data, hheld⟩
  exact .of_inv hset.deriveIncrements

theorem Inv.execSetVoice (sel : SelField) (data : DataField) : AnswersLegal (execSetVoice sel data s) := by
  have hnote := optNoteOperand_ok h.params data
  unfold Machine.execSetVoice
  split
  · next v _ =>
    split
    · next n hn => exact .of_inv (h.setNote v (hn ▸ hnote))
    · exact .of_inv ((h.setNote v OptNote.none).silence v)
  · exact .of_inv h

/-! ## The step -/

/-- In a legal state every operation answers a legal state. -/
theorem Inv.exec (i : Instr) : AnswersLegal (exec i s) := by
  cases i with
  | nop => exact .of_inv h
  | audioTick => exact .orTableFault h.audioTickStep
  | lfoTick => exact .orTableFault h.lfoTickStep
  | envTick => exact .of_inv h.envTickStep
  | clockTick => exact .orTableFault h.clockTickStep
  | reset => exact .of_inv ((resetWith_inv h.params).withInputs.withPorts List.nodup_nil)
  | loadMute data => exact h.execLoadMute data
  | setMasterVol data => exact h.execSetMasterVol data
  | clrStatus data => exact .of_inv h.withStatus
  | reportStoreErr => exact .of_inv h.withStatus
  | setBitmunch data => exact h.execSetBitmunch data
  | outboxDrain => exact h.execOutboxDrain
  | setWave sel data => exact h.execSetWave sel data
  | setOctave sel data => exact h.execSetOctave sel data
  | setVolume sel data => exact h.execSetVolume sel data
  | setDetune sel data => exact h.execSetDetune sel data
  | setPw data => exact h.execSetPw data
  | writeWavetable sel addr data => exact h.execWriteWavetable sel addr data
  | setAttack data => exact h.execSetAttack data
  | setDecay data => exact h.execSetDecay data
  | setSustain data => exact h.execSetSustain data
  | setRelease data => exact h.execSetRelease data
  | envTrigger data => exact h.execEnvTrigger data
  | envRelease => exact .of_inv h.envReleaseNow
  | setLfoShape data => exact .of_inv (h.withLfo h.lfo)
  | setLfoRate data => exact h.execSetLfoRate data
  | setLfoRange data => exact h.execSetLfoRange data
  | setLfoRetrig data => exact .of_inv (h.withLfo h.lfo)
  | setLfoSync data => exact h.execSetLfoSync data
  | lfoSyncReset => exact .of_inv h.lfoResync
  | setMod sel data => exact h.execSetMod sel data
  | setCutoff data => exact h.execSetCutoff data
  | setResonance data => exact h.execSetResonance data
  | setFilterMode data => exact .of_inv (h.withFilter h.filter)
  | setFilterBypass data => exact .of_inv (h.withFilter h.filter)
  | setShaper sel data => exact h.execSetShaper sel data
  | setGain data => exact h.execSetGain data
  | setBpm data => exact h.execSetBpm data
  | setDivision data => exact h.execSetDivision data
  | extClock => exact (AnswersLegal.of_inv h.noticeExtLoss.extClockMessage).ite (.of_inv h)
  | extStart => exact h.execExtStart
  | extStop => exact (AnswersLegal.of_inv h.stopSeq).ite (.of_inv h)
  | setMidiSync data => exact h.execSetMidiSync data
  | clockPoll => exact .of_inv h.noticeExtLoss
  | seqStart => exact .of_inv h.startSeq
  | seqStop => exact .of_inv h.stopSeq
  | seqSelect sel => exact h.execSeqSelect sel
  | setPlayMode data => exact h.execSetPlayMode data
  | setBankMode data => exact h.execSetBankMode data
  | seqWrite sel field sub step data => exact h.execSeqWrite sel field sub step data
  | seqSetParam sel addr data => exact h.execSeqSetParam sel addr data
  | seqCopy sel addr => exact h.execSeqCopy sel addr
  | seqClear sel => exact h.execSeqClear sel
  | seqEdit step data => exact .of_inv (h.withSeq h.seq)
  | arpEnable data => exact h.execArpEnable data
  | setArpDir data => exact h.execSetArpDir data
  | setArpStepMode data => exact .of_inv (h.withArp h.arp)
  | setArpOctRange data => exact h.execSetArpOctRange data
  | setArpNoteDur data => exact h.execSetArpNoteDur data
  | setArpSource data => exact h.execSetArpSource data
  | setArpMono data => exact .of_inv (h.withArp h.arp)
  | keyOn addr data => exact h.execKeyOn addr data
  | keyOff addr => exact h.execKeyOff addr
  | setVoiceMode data => exact h.execSetVoiceMode data
  | setUnison data => exact h.execSetUnison data
  | setUnisonSpread data => exact h.execSetUnisonSpread data
  | setPortamento data => exact h.execSetPortamento data
  | setVoice sel data => exact h.execSetVoice sel data

theorem Inv.runWord (w : CmdWord) : AnswersLegal (runWord w s) := by
  cases hd : decode w with
  | ok i => rw [runWord_of_decode hd]; exact h.exec i
  | error e => rw [runWord_of_decode_error hd]; exact .of_inv h.withStatus

theorem Inv.step : AnswersLegal (step s) := by
  cases ha : Machine.arbitrate (Machine.accept s) with
  | none => rw [step_of_idle ha]; exact .of_inv (h.accept.withPorts h.accept.ports)
  | some r => rw [step_of_arbitrate ha]; exact (h.accept.arbitrate ha).1.runWord r.1

end

/-- Settles O5: the step of a legal state answers a legal state. -/
theorem nothingIsFatal : Obligations.NothingIsFatal := by
  intro s h
  obtain ⟨t, ht, -⟩ := h.step
  exact ⟨t, ht⟩

/-- Settles O4: so the state that a legal state's step answers is legal, and no step changes the configuration. -/
theorem stepKeepsStateLegal : Obligations.StepKeepsStateLegal := by
  intro s t h hstep
  obtain ⟨u, hu, hlegal⟩ := h.step
  cases hu.symm.trans hstep
  exact ⟨hlegal, step_params hstep⟩

end Sys2Proof.Machine
end

section
/-! PROOFS. The arpeggiator's settings and note lists (48_arpeggiator R341 to R347, R349, R351, R352) and its step (R353
to R356): each procedure in whole, then the obligations by their cases. -/

namespace Sys2Proof.Machine

/-! ## The settings (R342 to R347) and the sort (R352) -/

/-- The five step modes in the order 48_arpeggiator R343 numbers them. -/
theorem arpStepModeOperand_eq_getD (data : DataField) :
    arpStepModeOperand data =
      [ArpStepMode.step1, .step2, .step3, .random, .twoForwardOneBack].getD (min 4 data.toNat) .twoForwardOneBack := by
  unfold arpStepModeOperand
  split
  case h_5 h0 h1 h2 h3 =>
    rw [imp_false] at h0 h1 h2 h3
    rw [Nat.min_eq_left (by omega)]; rfl
  all_goals next hn => rw [hn]; rfl

theorem data_eq_zero_iff (data : DataField) : data = 0 ↔ data.toNat = 0 := BitVec.toNat_eq

theorem arpDirOperand_eq_ite (data : DataField) : arpDirOperand data = if data = 0 then .forward else .backward := by
  unfold arpDirOperand
  split
  case h_1 h0 => rw [if_pos ((data_eq_zero_iff data).2 h0)]
  case h_2 h0 => rw [if_neg (mt (data_eq_zero_iff data).1 h0)]

theorem arpSourceOperand_eq_ite (data : DataField) :
    arpSourceOperand data = if data = 0 then .frontPanel else .midi := by
  unfold arpSourceOperand
  split
  case h_1 h0 => rw [if_pos ((data_eq_zero_iff data).2 h0)]
  case h_2 h0 => rw [if_neg (mt (data_eq_zero_iff data).1 h0)]

/-- The list a source and a direction ask for: as the keys came, reversed, ascending, or as it was. -/
theorem sortNotes_frontPanel (dir : ArpDir) (raw old : List Note) :
    sortNotes .frontPanel dir raw old = if dir = .forward then raw else raw.reverse := by
  cases dir with
  | forward => rfl
  | backward => rfl

theorem sortNotes_ascending (raw old : List Note) :
    (sortNotes .midi .forward raw old).Perm raw ∧ (sortNotes .midi .forward raw old).Pairwise (· ≤ ·) :=
  ⟨List.perm_insertionSort _ raw, List.pairwise_insertionSort _ raw⟩

theorem arpSort_withArp (a : Arp) (s : State) :
    arpSort (s.withArp a) = s.withArp { a with sorted := sortNotes a.source a.dir a.raw a.sorted } := rfl

/-- Settles O24: the two sorts by the source and the direction in force after the setting. -/
theorem arpSettingsAreStoredAndSort : Obligations.ArpSettingsAreStoredAndSort := by
  intro s data
  refine ⟨?stepMode, ?octRange, ?noteDur, ?mono, sortNotes s.arp.source (arpDirOperand data) s.arp.raw s.arp.sorted,
    sortNotes (arpSourceOperand data) s.arp.dir s.arp.raw s.arp.sorted, ?dir, ?source, ?panel, ?midi, ?forward,
    ?backward⟩
  case stepMode => rw [exec, execSetArpStepMode, arpStepModeOperand_eq_getD]; rfl
  case octRange => rw [exec, execSetArpOctRange, countOperand_zero_eq_min]; rfl
  case noteDur => rw [exec, execSetArpNoteDur, countOperand, clampNat_eq_max_min (by decide)]; rfl
  case mono => rw [exec, execSetArpMono, flagOperand_eq_decide_ne_zero]; rfl
  case dir => rw [exec, execSetArpDir, arpSort_withArp, arpDirOperand_eq_ite]; rfl
  case source => rw [exec, execSetArpSource, arpSort_withArp, arpSourceOperand_eq_ite]; rfl
  case panel =>
    intro hsource
    rw [hsource, arpDirOperand_eq_ite, sortNotes_frontPanel]
    split <;> rfl
  case midi =>
    intro hsource
    rw [hsource, arpDirOperand_eq_ite]
    split
    · exact sortNotes_ascending ..
    · rfl
  case forward =>
    intro hdir
    rw [hdir, arpSourceOperand_eq_ite]
    split
    · rfl
    · exact sortNotes_ascending ..
  case backward =>
    intro hdir
    rw [hdir, arpSourceOperand_eq_ite]
    split <;> rfl

/-! ## ARP_ENABLE (R341, R349, R389) -/

theorem anyKey_iff (s : State) : anyKey s = true ↔ ∃ v : Fin 4, s.voices[v].key ≠ none := by
  simp only [anyKey, Bool.or_eq_true, Option.isSome_iff_ne_none, Fin.exists_fin_succ]
  simp [or_assoc]

/-- Every key is let go, and the envelope is released if there was one. -/
theorem allocReleaseAll_releases (s : State) : ∃ voices : Vector Voice 4,
    (∀ v : Fin 4, voices[v] = { s.voices[v] with key := none }) ∧
    (let freed := (s.withVoices voices).withAlloc { s.alloc with held := [] }
     if (∃ v : Fin 4, s.voices[v].key ≠ none) ∨ s.alloc.held ≠ [] then Released freed (allocReleaseAll s)
     else allocReleaseAll s = freed) := by
  refine ⟨s.voices.map fun x => { x with key := none }, fun v => Vector.getElem_map _ v.isLt, ?_⟩
  have hany : (anyKey s || decide (s.alloc.held ≠ [])) = true ↔
      (∃ v : Fin 4, s.voices[v].key ≠ none) ∨ s.alloc.held ≠ [] := by
    rw [Bool.or_eq_true, anyKey_iff, decide_eq_true_iff]
  rw [allocReleaseAll]
  simp only [hany]
  split
  · exact envReleaseNow_released _
  · rfl

section
variable {s : State} {data : DataField}

theorem exec_arpEnable_of_same (h : flagOperand data = s.arp.on) : exec (.arpEnable data) s = .next s := by
  rw [exec, execArpEnable, h]
  cases s.arp.on with
  | true => rfl
  | false => rfl

theorem exec_arpEnable_on (hdata : flagOperand data = true) (h : s.arp.on = false) :
    exec (.arpEnable data) s =
      .next ((arpClear (allocReleaseAll s)).withArp { (arpClear (allocReleaseAll s)).arp with on := true }) := by
  rw [exec, execArpEnable, hdata, h]; rfl

theorem exec_arpEnable_off (hdata : flagOperand data = false) (h : s.arp.on = true) :
    exec (.arpEnable data) s = .next (arpClear (arpReleasePending (s.withArp { s.arp with on := false }))) := by
  rw [exec, execArpEnable, hdata, h]; rfl

end

/-- Settles O51, by the flag and the state of the arpeggiator. -/
theorem arpEnableSwitchesAndClears : Obligations.ArpEnableSwitchesAndClears := by
  intro s data clear
  have hflag := flagOperand_eq_decide_ne_zero data
  refine ⟨fun hsame => ?same, fun hdata hoff => ?switchOn, fun hdata hon => ?switchOff⟩
  case same =>
    refine exec_arpEnable_of_same ?_
    rw [hflag, Bool.eq_iff_iff, decide_eq_true_iff]
    exact hsame
  case switchOn =>
    obtain ⟨voices, hvoices, hfreed⟩ := allocReleaseAll_releases s
    have harp : (allocReleaseAll s).arp = s.arp := by simp
    refine ⟨voices, allocReleaseAll s, hvoices, hfreed, ?_⟩
    rw [exec_arpEnable_on (hflag.trans (decide_eq_true hdata)) hoff, ← harp]
    rfl
  case switchOff =>
    refine ⟨_, arpReleasePending_releases (s.withArp { s.arp with on := false }), ?_⟩
    rw [exec_arpEnable_off (hflag.trans (decide_eq_false (not_not_intro hdata))) hon]
    rfl

/-! ## The list of held notes (R351) -/

theorem exec_keyOn_of_arp_on {s : State} (h : s.arp.on = true) (addr : AddrField) (data : DataField) :
    exec (.keyOn addr data) s = .next (arpNoteOn (noteOperand s.params addr) (velOperand data) s) := by
  rw [exec, execKeyOn, if_pos h]; rfl

theorem exec_keyOff_of_arp_on {s : State} (h : s.arp.on = true) (addr : AddrField) :
    exec (.keyOff addr) s = .next (arpNoteOff (noteOperand s.params addr) s) := by
  rw [exec, execKeyOff, if_pos h]; rfl

theorem arpRelist_eq (raw : List Note) (s : State) :
    arpRelist raw s = s.withArp { s.arp with
      raw := raw, sorted := sortNotes s.arp.source s.arp.dir raw s.arp.sorted, len := raw.length } := rfl

/-- A new note joins the list, and the first one of a list restarts the pattern. -/
theorem arpNoteOn_of_new {k : Note} {s : State} (hk : k ∉ s.arp.raw) (hfree : s.arp.raw.length ≠ 10) (vel : Int) :
    arpNoteOn k vel s =
      (let a := if s.arp.raw = [] then freshArp s.arp else s.arp
       s.withArp { a with
        vel := vel
        raw := s.arp.raw ++ [k]
        sorted := sortNotes s.arp.source s.arp.dir (s.arp.raw ++ [k]) s.arp.sorted
        len := s.arp.raw.length + 1 }) := by
  rw [arpNoteOn, if_neg hk, Config.arpCap, if_neg hfree]
  simp only [arpRelist_eq, List.length_append, List.length_singleton]
  split
  · rfl
  · rfl

/-- Settles O52, by the place of the key in the list. -/
theorem arpKeysKeepTheHeldList : Obligations.ArpKeysKeepTheHeldList := by
  intro s addr data hon k vel fresh
  have hkeyOn := exec_keyOn_of_arp_on hon addr data
  have hkeyOff := exec_keyOff_of_arp_on hon addr
  rw [velOperand_eq_min] at hkeyOn
  refine ⟨fun hk => ?held, fun hk hfull => ?full, fun hk hfree => ?joins, fun hk => ?absent, fun l r hraw hk => ?leaves⟩
  case held => exact hkeyOn.trans (congrArg _ (if_pos hk))
  case full => exact hkeyOn.trans (congrArg _ ((if_neg hk).trans (if_pos hfull)))
  case joins => exact hkeyOn.trans (congrArg _ (arpNoteOn_of_new hk hfree _))
  case absent => exact hkeyOff.trans (congrArg _ (if_neg hk))
  case leaves =>
    have hmem : k ∈ s.arp.raw := hraw ▸ List.mem_append_right _ List.mem_cons_self
    have herase : s.arp.raw.erase k = l ++ r := by rw [hraw, List.erase_append_right _ hk, List.erase_cons_head]
    have hoff : arpNoteOff k s = arpRelist (l ++ r) s := (if_pos hmem).trans (congrArg (arpRelist · s) herase)
    exact hkeyOff.trans (congrArg _ hoff)

/-! ## The position (R354) -/

/-- A draw of a position is one in the list. -/
theorem arpAdvance_of_random {n : Nat} (hn : 0 < n) {s : State} (h : s.arp.stepMode = .random) :
    ∃ q : Nat, q < n ∧ arpAdvance n s =
      (s.withInputs { s.inputs with rnd := s.inputs.rnd.drop 1, drawCount := s.inputs.drawCount + 1 }).withArp
        { s.arp with pos := q } := by
  obtain ⟨hlo, hhi⟩ := draw_bounds (lo := 0) (hi := (n : Int) - 1) (by omega) s
  refine ⟨(draw 0 ((n : Int) - 1) s).1.toNat, by omega, ?_⟩
  rw [arpAdvance, h, ← afterDraw_eq_drop]
  rfl

/-- Settles O53: the machine of the last mode by its flags. -/
theorem arpPositionAdvancesByStepMode : Obligations.ArpPositionAdvancesByStepMode := by
  intro s n hn
  dsimp only
  refine ⟨fun h => ?step1, fun h => ?step2, fun h => ?step3, arpAdvance_of_random hn, fun h => ?pattern⟩
  case step1 => simp only [arpAdvance, h]
  case step2 => simp only [arpAdvance, h]
  case step3 => simp only [arpAdvance, h]
  case pattern =>
    have hadvance : arpAdvance n s = s.withArp (twoForwardOneBack n s.arp) := by rw [arpAdvance, h]
    rw [hadvance]
    refine ⟨fun hfresh => ?fresh, fun hfresh hback hroom => ?forward, fun hfresh hback hend => ?clamped,
      fun hfresh hback => ?back⟩
    case fresh => rw [twoForwardOneBack, if_pos hfresh]
    all_goals rw [twoForwardOneBack, if_neg (Bool.eq_false_iff.1 hfresh)]
    case forward =>
      rw [if_neg (Bool.eq_false_iff.1 hback), Nat.min_eq_left hroom, decide_eq_false hroom.not_gt, Bool.or_false]
    case clamped =>
      rw [if_neg (Bool.eq_false_iff.1 hback), Nat.min_eq_right hend.le, decide_eq_true hend, Bool.or_true]
    case back => rw [if_pos hback]

/-! ## The step (R353, R355, R356) -/

/-- The note voice v is given where voice 0 and the unison voices play `k`. -/
def unisonNote (s : State) (k : Note) (v : Fin 4) : Option Note := if v.val ≤ s.alloc.unisonCount then some k else none

theorem noteOrMute_alloc (v : Fin 4) (x : Option Note) (s : State) : (noteOrMute v x s).alloc = s.alloc := by
  rw [noteOrMute_eq_with]; rfl

theorem assignUnison_eq (k : Note) (v : Fin 4) (s : State) :
    assignUnison k v s = noteOrMute v (unisonNote s k v) s := by
  rw [assignUnison, unisonNote]
  split
  · rfl
  · rfl

theorem unisonGiven_eq (k : Note) (s : State) : unisonGiven k s = notesGiven (unisonNote s k) s := rfl

/-- Giving the notes leaves the count of the unison voices, so each voice finds the count of the start. -/
theorem forVoices_assignUnison (k : Note) (s : State) : forVoices (assignUnison k) s = unisonGiven k s := by
  simp only [unisonGiven_eq, forVoices, assignUnison_eq, unisonNote, noteOrMute_alloc]

theorem arpAssign_eq (k : Note) (s : State) :
    arpAssign k s = if s.arp.mono then unisonGiven k s else setNote 0 (some k) s := by
  rw [arpAssign, forVoices_assignUnison]

/-- What an assigned voice plays: its unison note, or in the other mode the note for voice 0 only. -/
theorem arpAssign_still (k : Note) (s : State) (u : Fin 4) :
    (arpAssign k s).voices[u].still =
      if s.arp.mono then s.voices[u].still.given (unisonNote s k u)
      else if u = 0 then s.voices[u].still.given (some k) else s.voices[u].still := by
  rw [arpAssign_eq]
  split
  · exact notesGiven_still (unisonNote s k) s u
  · exact noteOrMute_still 0 (some k) u s

/-- The state whose envelope the step triggers: the note assigned and echoed. -/
def arpEchoed (k : Note) (s : State) : State :=
  ((arpAssign k s).withOutbox { s.outbox with
    arpOn := some (k, s.arp.vel), arpOff := if s.arp.note ≠ none then s.arp.note else s.outbox.arpOff }).withArp
    { s.arp with note := some k }

/-- The arpeggiator after the step: the note sounds and its release is scheduled. -/
abbrev arpScheduled (k : Note) (s : State) : Arp :=
  { s.arp with note := some k, pendRel := some ((s.clock.pulse + s.arp.dur) % (2 * s.clock.div)) }

theorem arpPlay_eq (k : Note) (s : State) :
    arpPlay k s = (envTriggerWith s.arp.vel (arpEchoed k s)).withArp (arpScheduled k s) := by
  have harp : (arpAssign k s).arp = s.arp := by simp
  have hbox : (arpAssign k s).outbox = s.outbox := by simp
  simp only [arpPlay, harp, hbox, Option.isSome_iff_ne_none]
  simp [measure, arpEchoed]

/-- The trigger keeps every note, and an unmarked voice sounds on. -/
theorem envTriggerWith_voice (vel : Int) (s : State) (u : Fin 4) :
    (envTriggerWith vel s).voices[u].note = s.voices[u].note ∧
    (s.voices[u].sounding = true → s.voices[u].muteOnTrig = false →
      (envTriggerWith vel s).voices[u].sounding = true) := by
  obtain ⟨hnote, -, hsound⟩ := stepSounded_voice (s := s) (u := u) (vel := vel)
  exact ⟨hnote, fun hs hm => (hsound hs hm).1⟩

/-- A voice given the note plays it after the step. -/
theorem arpPlay_given {k : Note} {s : State} {u : Fin 4}
    (h : (arpAssign k s).voices[u].still = s.voices[u].still.given (some k)) :
    (arpPlay k s).voices[u].note = some k ∧ (arpPlay k s).voices[u].sounding = true := by
  obtain ⟨hnote, hsounding, hmute, -⟩ := still_fields (h.trans (given_still _ _))
  obtain ⟨hkeeps, hsound⟩ := envTriggerWith_voice s.arp.vel (arpEchoed k s) u
  rw [arpPlay_eq]
  exact ⟨hkeeps.trans hnote, hsound hsounding hmute⟩

/-- Any other voice keeps the note it has after the assignment. -/
theorem arpPlay_note (k : Note) (s : State) (u : Fin 4) :
    (arpPlay k s).voices[u].note = (arpAssign k s).voices[u].note := by
  rw [arpPlay_eq]
  exact (envTriggerWith_voice s.arp.vel (arpEchoed k s) u).1

/-- An advance moves the position and the flags of the pattern. -/
theorem arpAdvance_arp (n : Nat) (s : State) :
    (arpAdvance n s).arp =
      { s.arp with
        pos := (arpAdvance n s).arp.pos, fresh := (arpAdvance n s).arp.fresh
        back := (arpAdvance n s).arp.back, restart := (arpAdvance n s).arp.restart } := by
  unfold arpAdvance
  split
  case h_5 => exact twoForwardOneBack_frame n s.arp
  all_goals rfl

/-- The advance before a step: the octave where the position is 0, then the position. -/
def arpAdvanced (s : State) : State := arpAdvance s.arp.raw.length (s.withArp (arpOctaveStep s.arp))

theorem arpAdvanced_arp (s : State) :
    (arpAdvanced s).arp.vel = s.arp.vel ∧ (arpAdvanced s).arp.note = s.arp.note ∧
    (arpAdvanced s).arp.mono = s.arp.mono ∧ (arpAdvanced s).arp.dur = s.arp.dur := by
  rw [arpAdvanced, arpAdvance_arp, arpOctaveStep]
  split
  · exact ⟨rfl, rfl, rfl, rfl⟩
  · exact ⟨rfl, rfl, rfl, rfl⟩

theorem arpStep_of_rest {s : State} (h : (arpAdvanced s).arp.sorted[(arpAdvanced s).arp.pos]? = none) :
    arpStep s = arpAdvanced s := by
  rw [arpAdvanced] at h ⊢
  simp only [arpStep, h]

theorem arpStep_of_note {s : State} {k : Note}
    (h : (arpAdvanced s).arp.sorted[(arpAdvanced s).arp.pos]? = some k) :
    arpStep s = arpPlay (clampNote s.params (k + 12 * ((arpAdvanced s).arp.oct : Int))) (arpAdvanced s) := by
  have hparams : (arpAdvanced s).params = s.params := by simp [arpAdvanced]
  rw [← hparams, arpAdvanced]
  rw [arpAdvanced] at h
  simp only [arpStep, h]

/-- Settles O54: the note is played over the state the advance leaves, which has the voices and the settings of `s`. -/
theorem arpStepPlaysTheNextNote : Obligations.ArpStepPlaysTheNextNote := by
  intro s m t
  refine ⟨fun hrest => ?rest, fun k hk => ?plays⟩
  case rest => exact arpStep_of_rest hrest
  intro note
  obtain ⟨hvel, hnote, hmono, hdur⟩ : m.arp.vel = s.arp.vel ∧ m.arp.note = s.arp.note ∧ m.arp.mono = s.arp.mono ∧
      m.arp.dur = s.arp.dur := arpAdvanced_arp s
  have halloc : m.alloc = s.alloc := by simp [m]
  have hclock : m.clock = s.clock := by simp [m]
  have hbox : m.outbox = s.outbox := by simp [m]
  have hvoices : m.voices = s.voices := by simp [m]
  have hplay : t = arpPlay note m := arpStep_of_note hk
  have harp : t.arp = arpScheduled note m := by rw [hplay, arpPlay_eq]; rfl
  have houtbox : t.outbox = (arpEchoed note m).outbox := by rw [hplay, arpPlay_eq]; simp
  have henv := envTriggerWith_env m.arp.vel (arpEchoed note m)
  have htenv : t.env = (envTriggerWith m.arp.vel (arpEchoed note m)).env := by rw [hplay, arpPlay_eq]; rfl
  rw [← htenv] at henv
  refine ⟨?played, ?arp, ?outbox, henv.1.trans hvel, henv.2, fun v hv => ?given, fun v hmono' hv hout => ?muted,
    fun v hpoly hv => ?others, ?frame⟩
  case played =>
    refine ⟨envTriggerWith m.arp.vel (arpEchoed note m), ?_, ?_⟩
    · rw [houtbox, ← hvel, ← hmono, ← arpAssign_eq]
      exact envTriggerWith_triggered _ _
    · rw [harp, hplay, arpPlay_eq]
  case arp => rw [harp, ← hclock, ← hdur]
  case outbox => rw [houtbox, arpEchoed, hbox, hvel, hnote]; rfl
  case given =>
    rw [hplay]
    refine arpPlay_given ?_
    rw [arpAssign_still, hmono, unisonNote, halloc]
    rcases hv with rfl | ⟨hon, hv⟩
    · simp
    · rw [if_pos hon, if_pos hv]
  case muted =>
    have hstill := arpAssign_still note m v
    rw [hmono, if_pos hmono', unisonNote, halloc, if_neg (Nat.not_le.2 hout), given_still] at hstill
    rw [hplay, arpPlay_note]
    exact (still_fields hstill).1
  case others =>
    have hstill := arpAssign_still note m v
    rw [hmono, hpoly, if_neg Bool.false_ne_true, if_neg hv, hvoices] at hstill
    rw [hplay, arpPlay_note]
    exact (still_fields hstill).1
  case frame => simp [hplay, m]

end Sys2Proof.Machine
end

section
/-! PROOFS. Voices and keys (49_voice_allocator R374, R377, R381, R382, R384 to R389): which voice a key owns or takes,
the key that wins, and what assigning it leaves. -/

namespace Sys2Proof.Machine

/-! ## SetNote and SET_VOICE (R374, R381) -/

theorem setOsc_startGlide_osc (s : State) (o' o : Fin 8) :
    (s.setOsc o' (startGlide s.osc[o'])).osc[o] =
      { s.osc[o] with portaFrom := if o = o' then s.osc[o].lastTgt else s.osc[o].portaFrom } := by
  simp only [State.setOsc, State.withOsc_osc, Fin.getElem_fin, Vector.getElem_set, Fin.ext_iff, eq_comm (a := o'.val)]
  split
  · next h => simp only [h]; rfl
  · rfl

/-- The two oscillators of a voice. -/
theorem mod_four_eq_iff (o : Fin 8) (v : Fin 4) : o.val % 4 = v.val ↔ o = oscOf 0 v ∨ o = oscOf 1 v := by
  simp only [Fin.ext_iff, oscOf]
  omega

theorem setNote_noteGiven (v : Fin 4) (n : Note) (s : State) : NoteGiven v n s (setNote v (some n) s) := by
  let m := s.setOsc (oscOf 0 v) (startGlide s.osc[oscOf 0 v])
  refine ⟨(m.setOsc (oscOf 1 v) (startGlide m.osc[oscOf 1 v])).osc, _, fun o => ?_, fun u => ?_, rfl⟩
  · rw [setOsc_startGlide_osc, setOsc_startGlide_osc]
    simp only [mod_four_eq_iff]
    by_cases h0 : o = oscOf 0 v
    · simp [h0]
    · simp [h0]
  · refine (setVoice_voices _ u v _).trans ?_
    split
    · next huv => subst huv; rfl
    · rfl

theorem optNoteOperand_of_ne {data : DataField} (h : data ≠ 0x80000000) (p : Params) :
    optNoteOperand p data = some (within p.noteMin p.noteMax data.toInt) := if_neg h

/-- Settles O55: a voice that exists is given the note, or none and silence. -/
theorem setVoiceGivesOrTakesANote : Obligations.SetVoiceGivesOrTakesANote := by
  refine ⟨fun s v => ⟨fun n => setNote_noteGiven v n s, rfl⟩,
    fun s v sel data hsel => ⟨fun hdata => ?gives, fun hdata => ?takes⟩⟩
  case gives =>
    refine ⟨_, ?_, setNote_noteGiven v _ s⟩
    rw [exec, execSetVoice, selOperand_of_toNat_eq hsel]
    simp only [optNoteOperand_of_ne hdata]; rfl
  case takes =>
    refine ⟨_, rfl, ?_⟩
    rw [hdata, exec, execSetVoice, selOperand_of_toNat_eq hsel]
    rfl

/-! ## SET_VOICE_MODE (R377) -/

/-- The four voice modes in the order 49_voice_allocator R377 numbers them. -/
theorem voiceModeOperand_eq_getD (data : DataField) :
    voiceModeOperand data =
      [VoiceMode.paraphonic, .monoHighest, .monoLowest, .monoLast].getD (min 3 data.toNat) .monoLast := by
  unfold voiceModeOperand
  split
  case h_4 h0 h1 h2 =>
    rw [imp_false] at h0 h1 h2
    rw [Nat.min_eq_left (by omega)]; rfl
  all_goals next hn => rw [hn]; rfl

theorem allocReleaseAll_alloc (s : State) : (allocReleaseAll s).alloc = { s.alloc with held := [] } := by
  simp only [allocReleaseAll]
  split
  · simp
  · rfl

/-- Settles O56, by whether the mode is a new one. -/
theorem setVoiceModeLetsGoOfHeldKeys : Obligations.SetVoiceModeLetsGoOfHeldKeys := by
  intro s data mode
  have hmode : voiceModeOperand data = mode := voiceModeOperand_eq_getD data
  refine ⟨fun hsame => ?same, fun hnew => ?new⟩
  case same => rw [exec, execSetVoiceMode, hmode]; exact if_pos hsame
  case new =>
    obtain ⟨voices, hvoices, hfreed⟩ := allocReleaseAll_releases s
    refine ⟨voices, allocReleaseAll s, hvoices, hfreed, ?_⟩
    have hexec : exec (.setVoiceMode data) s = .next (deriveIncrements (updateUnison
        ((allocReleaseAll s).withAlloc { (allocReleaseAll s).alloc with voiceMode := mode }))) := by
      rw [exec, execSetVoiceMode, hmode]; exact if_neg hnew
    rw [hexec, allocReleaseAll_alloc]

/-! ## The owner of a key and the free voice -/

theorem key_of_voiceOfKey {k : Note} {s : State} {u : Fin 4} (h : voiceOfKey k s = some u) :
    s.voices[u].key = some k := by
  unfold voiceOfKey at h
  split_ifs at h
  all_goals
    cases h
    assumption

theorem voiceOfKey_eq_none {k : Note} {s : State} (h : ∀ v : Fin 4, s.voices[v].key ≠ some k) :
    voiceOfKey k s = none := by
  cases ho : voiceOfKey k s with
  | none => rfl
  | some u => exact absurd (key_of_voiceOfKey ho) (h u)

/-- No two voices hold one key, so the voice that holds it is the one found. -/
theorem voiceOfKey_eq_some {k : Note} {s : State} {v : Fin 4} (hdistinct : KeysDistinct s.voices)
    (h : s.voices[v].key = some k) : voiceOfKey k s = some v := by
  cases ho : voiceOfKey k s with
  | none => exact absurd h (voiceOfKey_none ho v)
  | some u =>
    have hu := key_of_voiceOfKey ho
    by_contra hne
    rcases hdistinct u v (fun heq => hne (congrArg some heq)) with hnone | hother
    · exact Option.some_ne_none k (hu.symm.trans hnone)
    · exact hother (hu.trans h.symm)

theorem freeVoice_eq_none {s : State} (h : ∀ v : Fin 4, s.voices[v].key ≠ none) : freeVoice s = none :=
  (if_neg (h 0)).trans ((if_neg (h 1)).trans ((if_neg (h 2)).trans (if_neg (h 3))))

/-- The lowest voice without a key is the one found. -/
theorem freeVoice_eq_some {s : State} {v : Fin 4} (hfree : s.voices[v].key = none)
    (hbelow : ∀ u : Fin 4, u < v → s.voices[u].key ≠ none) : freeVoice s = some v := by
  match v with
  | 0 => exact if_pos hfree
  | 1 => exact (if_neg (hbelow 0 (by decide))).trans (if_pos hfree)
  | 2 => exact (if_neg (hbelow 0 (by decide))).trans ((if_neg (hbelow 1 (by decide))).trans (if_pos hfree))
  | 3 =>
    exact (if_neg (hbelow 0 (by decide))).trans ((if_neg (hbelow 1 (by decide))).trans
      ((if_neg (hbelow 2 (by decide))).trans (if_pos hfree)))

/-! ## KEY_ON in paraphonic mode (R382) -/

theorem exec_keyOn_of_not_edit {s : State} (harp : s.arp.on = false) (hedit : s.seq.edit = false) (addr : AddrField)
    (data : DataField) :
    exec (.keyOn addr data) s =
      .next (keyPlayed (within s.params.noteMin s.params.noteMax addr.toInt) (min 127 (uData data)) s) := by
  rw [exec_keyOn_of_arp_off harp, velOperand_eq_min, hedit]; rfl

theorem markOthers_voices (v u : Fin 4) (s : State) :
    (markOthers v s).voices[u] = if u = v then s.voices[u] else { s.voices[u] with muteOnTrig := true } := by
  refine forVoices_apply (fun s u => s.voices[u])
    (fun w x => if w = v then x else { x with muteOnTrig := true }) (fun w u s => ?_) s u
  by_cases hw : w = v
  · simp [hw]
  · rw [if_neg hw, markMute, setVoice_voices]
    split
    · next huw => subst huw; rfl
    · rfl

theorem markOthers_eq_withVoices (v : Fin 4) (s : State) : markOthers v s = s.withVoices (markOthers v s).voices := by
  match v with
  | 0 | 1 | 2 | 3 => rfl

/-- The others are marked where the key is the only one. -/
theorem markOthers_if_first (v : Fin 4) (s m : State) : ∃ marked : Vector Voice 4,
    (∀ u : Fin 4, marked[u] =
      if u ≠ v ∧ ∀ w : Fin 4, s.voices[w].key = none then { m.voices[u] with muteOnTrig := true } else m.voices[u]) ∧
    (if !anyKey s then markOthers v m else m) = m.withVoices marked := by
  have hfirst : (!anyKey s) = true ↔ ∀ w : Fin 4, s.voices[w].key = none := by
    rw [Bool.not_eq_true', ← Bool.not_eq_true, anyKey_iff]
    simp
  by_cases h : ∀ w : Fin 4, s.voices[w].key = none
  · rw [if_pos (hfirst.2 h)]
    refine ⟨(markOthers v m).voices, fun u => ?_, markOthers_eq_withVoices v m⟩
    rw [markOthers_voices]
    by_cases huv : u = v
    · rw [if_pos huv, if_neg (fun hand => hand.1 huv)]
    · rw [if_neg huv, if_pos ⟨huv, h⟩]
  · rw [if_neg (mt hfirst.1 h)]
    exact ⟨m.voices, fun u => (if_neg fun hand => h hand.2).symm, rfl⟩

/-- Settles O57, by whether the key is held and a voice is free. -/
theorem paraphonicKeyOnTakesTheLowestFreeVoice : Obligations.ParaphonicKeyOnTakesTheLowestFreeVoice := by
  intro s addr data harp hmode hedit hdistinct k vel
  have hexec : exec (.keyOn addr data) s = .next (paraKeyOn k vel s) :=
    (exec_keyOn_of_not_edit harp hedit addr data).trans (congrArg _ (if_pos hmode))
  refine ⟨fun v hv => ?held, fun hfull => ?full, fun v hnew hfree hbelow => ?takes⟩
  case held =>
    refine ⟨setNote v (some k) s, _, setNote_noteGiven v k s, envTriggerWith_triggered vel _, ?_⟩
    rw [hexec, paraKeyOn, voiceOfKey_eq_some hdistinct hv]
  case full =>
    rw [hexec, paraKeyOn, voiceOfKey_eq_none fun v => (hfull v).1, freeVoice_eq_none fun v => (hfull v).2]
  case takes =>
    obtain ⟨marked, hmarked, heq⟩ := markOthers_if_first v s (setNote v (some k) (setKey v (some k) s))
    refine ⟨_, _, marked, setNote_noteGiven v k _, hmarked, envTriggerWith_triggered vel _, ?_⟩
    rw [hexec, paraKeyOn, voiceOfKey_eq_none hnew, freeVoice_eq_some hfree hbelow]
    exact congrArg (fun m => done (envTriggerWith vel m)) heq

/-! ## KEY_OFF in paraphonic mode (R384) -/

theorem exec_keyOff_of_arp_off {s : State} (harp : s.arp.on = false) (addr : AddrField) :
    exec (.keyOff addr) s =
      .next (if s.alloc.voiceMode = .paraphonic then paraKeyOff (within s.params.noteMin s.params.noteMax addr.toInt) s
        else monoKeyOff (within s.params.noteMin s.params.noteMax addr.toInt) s) := by
  rw [exec, execKeyOff, if_neg (Bool.eq_false_iff.1 harp), apply_ite Host.Outcome.next]
  rfl

/-- Some other voice has a key. -/
theorem anyKey_setKey_none (v : Fin 4) (s : State) :
    anyKey (setKey v none s) = true ↔ ∃ u : Fin 4, u ≠ v ∧ s.voices[u].key ≠ none := by
  rw [anyKey_iff]
  refine exists_congr fun u => ?_
  rw [setKey, setVoice_voices]
  by_cases huv : u = v
  · simp [huv]
  · simp [huv]

theorem setNote_none_setKey_none (v : Fin 4) (s : State) :
    setNote v none (setKey v none s) =
      deriveIncrements (s.withVoices (s.voices.set v { s.voices[v] with key := none, note := none })) := by
  have hself : (setKey v none s).voices[v] = { s.voices[v] with key := none } := Vector.getElem_set_self _
  have hset (x : Voice) : (setKey v none s).setVoice v x = s.withVoices (s.voices.set v x) :=
    congrArg s.withVoices (Vector.set_set _ _)
  rw [setNote, hself, hset]

/-- Settles O58, by whether the key is held and is the last one. -/
theorem paraphonicKeyOffFreesTheVoice : Obligations.ParaphonicKeyOffFreesTheVoice := by
  intro s addr harp hmode hdistinct k
  have hexec : exec (.keyOff addr) s = .next (paraKeyOff k s) :=
    (exec_keyOff_of_arp_off harp addr).trans (congrArg _ (if_pos hmode))
  refine ⟨fun habsent => ?absent, fun v hv => ⟨fun hothers => ?frees, fun hlast => ?last⟩⟩
  case absent => rw [hexec, paraKeyOff, voiceOfKey_eq_none habsent]
  all_goals
    have hoff : paraKeyOff k s =
        if anyKey (setKey v none s) then silence v (setNote v none (setKey v none s))
        else envReleaseNow (setKey v none s) := by
      rw [paraKeyOff, voiceOfKey_eq_some hdistinct hv]
    rw [hexec, hoff]
  case frees =>
    rw [if_pos ((anyKey_setKey_none v s).2 hothers), setNote_none_setKey_none]
    exact ⟨_, rfl, rfl⟩
  case last =>
    have hnone : ¬ anyKey (setKey v none s) = true := by
      rw [anyKey_setKey_none]
      rintro ⟨u, huv, hu⟩
      exact hu (hlast u huv)
    rw [if_neg hnone]
    exact ⟨_, envReleaseNow_released _, rfl⟩

/-! ## The mono modes (R385 to R388) -/

/-- The winner of a mono mode: the highest, the lowest or the last key held. -/
theorem winner_eq_some_iff {mode : VoiceMode} (hmode : mode ≠ .paraphonic) (l : List Note) (x : Note) :
    winner mode l = some x ↔
      (mode = .monoHighest → x ∈ l ∧ ∀ y ∈ l, y ≤ x) ∧ (mode = .monoLowest → x ∈ l ∧ ∀ y ∈ l, x ≤ y) ∧
      (mode = .monoLast → ∃ r, l = r ++ [x]) := by
  cases mode with
  | paraphonic => exact absurd rfl hmode
  | monoHighest => simp [winner, List.max?_eq_some_iff]
  | monoLowest => simp [winner, List.min?_eq_some_iff]
  | monoLast => simp [winner, List.getLast?_eq_some_iff]

theorem winner_nil (mode : VoiceMode) : winner mode [] = none := by
  cases mode with
  | paraphonic | monoHighest | monoLowest | monoLast => rfl

theorem erase_eq_filter {l : List Note} (h : l.Nodup) (k : Note) : l.erase k = l.filter (· ≠ k) := by
  rw [h.erase_eq_filter]
  exact List.filter_congr fun x _ => Bool.eq_iff_iff.2 (by simp)

/-- Every key is let go but `k`, which voice 0 takes. -/
theorem setKey_mapVoices_voices (k : Note) (s : State) (u : Fin 4) :
    (setKey 0 (some k) (s.mapVoices fun x => { x with key := none })).voices[u] =
      { s.voices[u] with key := if u = 0 then some k else none } := by
  have hmap (w : Fin 4) : (s.mapVoices fun x => { x with key := none }).voices[w] = { s.voices[w] with key := none } :=
    Vector.getElem_map _ w.isLt
  rw [setKey, setVoice_voices, hmap, hmap]
  split
  · next h0 => subst h0; rfl
  · rfl

theorem monoAssign_eq (k : Note) (s : State) :
    monoAssign k s = unisonGiven k (setKey 0 (some k) (s.mapVoices fun x => { x with key := none })) :=
  forVoices_assignUnison k _

/-- What each voice plays once `k` is assigned. -/
theorem monoAssign_voice (k : Note) (s : State) (v : Fin 4) :
    (monoAssign k s).voices[v].note = unisonNote s k v ∧
    (monoAssign k s).voices[v].sounding = ((unisonNote s k v).isSome || s.voices[v].sounding) ∧
    (monoAssign k s).voices[v].muteOnTrig = (unisonNote s k v).isNone ∧
    (monoAssign k s).voices[v].key = if v = 0 then some k else none := by
  have hstill := notesGiven_still (unisonNote s k) (setKey 0 (some k) (s.mapVoices fun x => { x with key := none })) v
  rw [setKey_mapVoices_voices, given_still] at hstill
  rw [monoAssign_eq]
  exact still_fields hstill

/-- A voice's turn touches oscillators and voices only, so all four do. -/
theorem unisonGiven_eq_with (k : Note) (s : State) :
    unisonGiven k s = (s.withOsc (unisonGiven k s).osc).withVoices (unisonGiven k s).voices := by
  have htrans {a b c : State} (hab : b = (a.withOsc b.osc).withVoices b.voices)
      (hbc : c = (b.withOsc c.osc).withVoices c.voices) : c = (a.withOsc c.osc).withVoices c.voices :=
    hbc.trans (congrArg (fun x => (x.withOsc c.osc).withVoices c.voices) hab)
  exact htrans (htrans (htrans (noteOrMute_eq_with ..) (noteOrMute_eq_with ..)) (noteOrMute_eq_with ..))
    (noteOrMute_eq_with ..)

theorem monoAssign_eq_with (k : Note) (s : State) :
    monoAssign k s = (s.withOsc (monoAssign k s).osc).withVoices (monoAssign k s).voices := by
  rw [monoAssign_eq]
  exact unisonGiven_eq_with k _

section
variable {k : Note} {s : State} (hk : k ∈ s.alloc.held)
include hk

theorem monoKeyOff_of_no_winner (h : winner s.alloc.voiceMode (s.alloc.held.erase k) = none) :
    monoKeyOff k s = envReleaseNow (setKey 0 none (s.withAlloc { s.alloc with held := s.alloc.held.erase k })) := by
  rw [monoKeyOff, if_pos hk]
  simp only [State.withAlloc_alloc, h]

theorem monoKeyOff_of_winner {w : Note} (h : winner s.alloc.voiceMode (s.alloc.held.erase k) = some w) :
    monoKeyOff k s =
      (let m := s.withAlloc { s.alloc with held := s.alloc.held.erase k }
       if s.voices[0].key = some w then m else monoAssign w m) := by
  rw [monoKeyOff, if_pos hk]
  simp only [State.withAlloc_alloc, h]
  rfl

end

/-- Settles O59: the winner is the key that the mode's priority names, and letting go of all leaves none. -/
theorem monoKeysFollowThePriority : Obligations.MonoKeysFollowThePriority := by
  refine ⟨fun s addr data harp hmode => ?keys, fun s k v => ⟨?voices, ?key, fun hv => ?given, fun hv => ?muted,
    monoAssign_eq_with k s⟩⟩
  case keys =>
    intro k others wins hnodup hlen
    have hothers : s.alloc.held.erase k = others := erase_eq_filter hnodup k
    have hwins (x : Note) (l : List Note) : winner s.alloc.voiceMode l = some x ↔ wins x l :=
      winner_eq_some_iff hmode l x
    have hkeyOff : exec (.keyOff addr) s = .next (monoKeyOff k s) :=
      (exec_keyOff_of_arp_off harp addr).trans (congrArg _ (if_neg hmode))
    refine ⟨fun hedit => ?keyOn, fun hk => ?absent, fun hk => ?letGo⟩
    case keyOn =>
      intro held m
      have hheld : pressHeld s.params.heldCap k s.alloc.held = held := by rw [pressHeld, hothers]
      have hkeyOn : exec (.keyOn addr data) s = .next
          (if winner s.alloc.voiceMode held = some k then envTriggerWith (min 127 (uData data)) (monoAssign k m)
           else m) := by
        rw [exec_keyOn_of_not_edit harp hedit, keyPlayed, if_neg hmode, monoKeyOn, hheld]; rfl
      rw [hkeyOn]
      exact ⟨fun hk => ⟨_, envTriggerWith_triggered _ _, congrArg _ (if_pos ((hwins k held).2 hk))⟩,
        fun hk => congrArg _ (if_neg (mt (hwins k held).1 hk))⟩
    case absent => exact hkeyOff.trans (congrArg _ (if_neg hk))
    case letGo =>
      intro m
      rw [hkeyOff]
      refine ⟨fun hlast => ?last, fun w hw => ?falls⟩
      case last =>
        have hnone : winner s.alloc.voiceMode (s.alloc.held.erase k) = none := by rw [hothers, hlast, winner_nil]
        rw [monoKeyOff_of_no_winner hk hnone, hothers]
        exact ⟨_, envReleaseNow_released _, rfl⟩
      case falls =>
        have hwinner : winner s.alloc.voiceMode (s.alloc.held.erase k) = some w := by rw [hothers, hwins]; exact hw
        rw [monoKeyOff_of_winner hk hwinner, hothers]
  all_goals obtain ⟨hnote, hsounding, hmute, hkey⟩ := monoAssign_voice k s v
  case voices =>
    exact ⟨_, setKey_mapVoices_voices k s, monoAssign_eq k s⟩
  case key => exact hkey
  case given =>
    rw [unisonNote, if_pos hv] at hnote hsounding hmute
    exact ⟨hnote, hsounding, hmute⟩
  case muted =>
    rw [unisonNote, if_neg (Nat.not_le.2 hv)] at hnote hsounding hmute
    exact ⟨hnote, hmute, hsounding⟩

end Sys2Proof.Machine
end

section
/-! PROOFS. One stored word (40_oscillator_bank R137), and silence through the stages of the audio tick (41_audio_mixer
R171): every stage maps the centre to the centre. -/

namespace Sys2Proof.Machine

/-! ## WRITE_WAVETABLE (R137) -/

theorem sampleOperand_eq (data : DataField) : sampleOperand data = BitVec.ofNat 12 (min 4095 data.toNat) := by
  rw [sampleOperand, uOperand_zero_eq_min, Config.sampleMax, uData, ← BitVec.ofInt_natCast]
  congr 1
  omega

/-- Settles O31: a user table has 600 words. -/
theorem writeWavetableStoresOneWord : Obligations.WriteWavetableStoresOneWord := by
  intro s u sel addr data hwf hsel haddr
  refine ⟨s.mem.write (.user u) addr.toNat (sampleOperand data), ?exec, fun T a => ?read, Memory.write_seq ..,
    Memory.write_wf hwf haddr _⟩
  case exec =>
    rw [exec, execWriteWavetable, selOperand_of_toNat_eq hsel]
    exact if_pos haddr
  case read => rw [Memory.read_write hwf, sampleOperand_eq]

/-! ## Silence (R171) -/

theorem scaled_centre (g : Int) : scaled 2048 g = 2048 := cmul_centre g

theorem bitMunch_centre (depth : Nat) : bitMunch depth 2048 = 2048 := by simp [bitMunch, asr]

theorem amplitudeChain_centre (s : State) : amplitudeChain s 2048 = 2048 := by
  simp only [amplitudeChain, bitMunch_centre, cmul_centre]

theorem outputGain_centre (s : State) : outputGain s 2048 = 2048 := by simp only [outputGain, cmul_centre]

/-- The average of four silent oscillators. -/
theorem engineRaw_of_silent {s : State} (h : ∀ v : Fin 4, s.voices[v].sounding = false) (e : Fin 2) :
    engineRaw e s = some 2048 := by
  have hosc (o : Fin 8) : oscSample o s = some 2048 := if_neg (Bool.eq_false_iff.1 (h (voiceOf o)))
  simp only [engineRaw, hosc, Option.bind_eq_bind, Option.bind_some]
  rfl

/-- The tables that match hold the centre at the centre. -/
theorem volumeWord_centre {s : State} (h : TablesMatch s) (e : Fin 2) : volumeWord s e 2048 = 2048 := by
  have hread : s.mem.read (.vol e) 2048 = BitVec.ofInt 12 2048 := by
    rw [h.vol e 2048 (by decide)]
    exact congrArg (BitVec.ofInt 12) (scaled_centre _)
  exact congrArg (fun x : Sample => (x.toNat : Int)) hread

/-- Every curve that R257 lists maps the centre to itself. -/
theorem shaperEntry_centre {p : Params} {t : Nat} (h : t = 0 ∨ (p.shaperGen = .listed ∧ t < 4)) (a : Int) :
    ((shaperEntry p t a 2048).toNat : Int) = 2048 := by
  have hidentity : ((shaperEntry p 0 a 2048).toNat : Int) = 2048 := rfl
  rcases h with rfl | ⟨hgen, ht⟩
  · exact hidentity
  · match t, ht with
    | 0, _ => exact hidentity
    | 1, _ => rw [shaperEntry_drive_toNat hgen]; simp [within]
    | 2, _ => rw [shaperEntry_fold_toNat hgen]; simp [fold, within]
    | 3, _ => rw [shaperEntry_rectify_toNat hgen]; simp [within]

section
variable {s : State} (h0 : s.filter.lp0 = 0) (h1 : s.filter.lp1 = 0)
include h0

theorem highPassTap_centre : highPassTap s.filter 2048 = 0 := by
  rw [highPassTap, filterInput_eq, h0]
  split <;> rfl

include h1

theorem bandPassTap_zero : bandPassTap s.filter = 0 := by rw [bandPassTap, h0, h1]; rfl

theorem nextLp0_centre : nextLp0 s.params s.filter 2048 = 0 := by
  rw [nextLp0, highPassTap_centre h0, bandPassTap_zero h0 h1, h0]
  simp [fxMul, wrap32, asr]

theorem nextLp1_centre : nextLp1 s.params s.filter 2048 = 0 := by
  rw [nextLp1, nextLp0_centre h0 h1, h1]
  simp [fxMul, wrap32, asr]

theorem filterAfter_centre : (filterAfter s 2048).lp0 = 0 ∧ (filterAfter s 2048).lp1 = 0 := by
  simp only [filterAfter, nextLp0_centre h0 h1, nextLp1_centre h0 h1, h0, h1, ite_self, and_self]

theorem filterOut_centre : filterOut s 2048 = 2048 := by
  have htap : filterTap s.params s.filter 2048 = 0 := by
    rw [filterTap_eq, nextLp1_centre h0 h1, bandPassTap_zero h0 h1, highPassTap_centre h0, ite_self, ite_self]
  rw [filterOut, htap]
  exact ite_self _

theorem gainedSample_centre (h : TablesMatch s) : gainedSample s 2048 = 2048 := by
  have hread : s.mem.read .gain 2048 = BitVec.ofInt 12 2048 := by
    rw [h.gain 2048 (by decide)]
    simp [within]
  rw [gainedSample, filterOut_centre h0 h1]
  exact congrArg (fun x : Sample => (x.toNat : Int)) hread

end

/-- Settles O38: the centre through the tick. -/
theorem silenceStaysSilent : Obligations.SilenceStaysSilent := by
  intro s hs htables hsilent hwave h0 h1 hcurve
  obtain ⟨idx0, idx1, ⟨-, hidx0⟩, ⟨-, hidx1⟩, hexec⟩ := exec_audioTick hs
  have hraw (e : Fin 2) : engineRaw e (phaseAdvance s) = some 2048 :=
    engineRaw_of_silent (s := phaseAdvance s) hsilent e
  have e0 : idx0 = 2048 := Option.some.inj ((hidx0 (hwave 0)).symm.trans (hraw 0))
  have e1 : idx1 = 2048 := Option.some.inj ((hidx1 (hwave 1)).symm.trans (hraw 1))
  rw [e0, e1, volumeWord_centre htables, volumeWord_centre htables] at hexec
  have hshaped : shapedSample s 2048 2048 = 2048 := by
    have hmix : asr ((2048 : Int) + 2048) 1 = 2048 := rfl
    rw [shapedSample, hmix, amplitudeChain_centre]
    exact (congrArg (fun x : Sample => (x.toNat : Int)) (htables.shaper 2048 (by decide))).trans
      (shaperEntry_centre hcurve _)
  have hout : tickSample s 2048 2048 = 2048 := by
    rw [tickSample, hshaped, gainedSample_centre h0 h1 htables, outputGain_centre]
  obtain ⟨hlp0, hlp1⟩ := filterAfter_centre h0 h1
  refine ⟨_, hexec, ?_, ?_, ?_, ?_⟩
  · exact congrArg (BitVec.ofInt 12) hout
  · exact congrArg (BitVec.ofInt 12) hout
  · exact (congrArg (fun x => (filterAfter s x).lp0) hshaped).trans hlp0
  · exact (congrArg (fun x => (filterAfter s x).lp1) hshaped).trans hlp1

end Sys2Proof.Machine
end
